-- ==== Sys2Proof/Word.lean ====
section
/-! DEFINITION. The word types of the block: packet words, bus bytes, pin levels. -/

namespace Sys2Proof

/-- One word of a packet, 16 bits (30_encoding.md R44). -/
abbrev Word := BitVec 16

/-- A bus byte, a character code or the field `IMM`, 8 bits (00_scope.md section 5.4). -/
abbrev Byte := BitVec 8

/-- A pin level: `false` is `0` (logic low), `true` is `1` (logic high) (00_scope.md section 5.1). -/
abbrev Level := Bool

end Sys2Proof
end

