-- ==== Sys2Proof/Config.lean ====
section
/-! DEFINITION. The parameters of the block (00_scope.md R5). The fixed ones are constants here;
those the spec leaves OPEN are fields of `Params`, which every `State` carries, so that a statement
about every state is a statement about every value of them. -/

namespace Sys2Proof

/-- N_DATA: number of data lines, "exactly 8" (00_scope.md R5). -/
def Config.nData : Nat := 8

/-- N_PINS: number of pins the block owns, 8 data lines, RS, RW and E (00_scope.md R5). -/
def Config.nPins : Nat := 11

/-- SETTLE_US: the settle duration in microseconds, 2160 by default (00_scope.md R5, 10_state.md R13). -/
def Config.settleUs : Nat := 2160

/-- DEFAULT_LINE_WIDTH: what an assembler puts in PRINT's `w` when none is given
(00_scope.md R5, 30_encoding.md R58). The block itself has no default. -/
def Config.defaultLineWidth : Byte := 20#8

/-- A clock period of `num / den` nanoseconds. T_TICK need not be a whole number of nanoseconds
(95_test_vectors.md 2.8 uses 62.5 ns). -/
structure Period where
  num : Nat
  den : Nat
  deriving DecidableEq, Repr

/-- The OPEN parameters of one instance of the block (00_scope.md R5).
`tTick` is T_TICK; `none` is a model without clock ticks (10_state.md R17, last sentence; log 1).
`pktMax` is PKT_MAX; `none` is "not given", the spec's default "unbounded" (log 2). -/
structure Params where
  tTick  : Option Period
  pktMax : Option Nat
  deriving DecidableEq, Repr

end Sys2Proof
end

