-- ==== Sys2Proof/Syntax.lean ====
section
/-! DEFINITION. The twelve commands of the block with their operands (30_encoding.md R47, R48). -/

namespace Sys2Proof

/-- A packet: the finite sequence of 16-bit words of one command (30_encoding.md R44). -/
abbrev Packet := List Word

/-- A string operand element: character codes 0 to 255, first character first (30_encoding.md R51). -/
abbrev CharString := List Byte

/-- The command set, one constructor per row of spec/opcode_table.json. -/
inductive Instr where
  /-- ALLOFF, 40_primitives.md R62. -/
  | alloff
  /-- INIT, 41_display_commands.md R63. -/
  | init (showCursor : Bool)
  /-- CLEAR, 41_display_commands.md R64. -/
  | clear
  /-- HOME, 41_display_commands.md R65. -/
  | home
  /-- DIR, 41_display_commands.md R66. -/
  | dir (rightToLeft : Bool)
  /-- CURL, 42_shift_commands.md R68. -/
  | curl
  /-- CURR, 42_shift_commands.md R69. -/
  | curr
  /-- SHL, 42_shift_commands.md R70. -/
  | shl
  /-- SHR, 42_shift_commands.md R71. -/
  | shr
  /-- SENDB, 40_primitives.md R61. -/
  | sendb (value : Byte)
  /-- STREAM, 43_stream_commands.md R73. -/
  | stream (strings : List CharString)
  /-- PRINT, 43_stream_commands.md R75. -/
  | print (strings : List CharString) (width : Byte)
  deriving DecidableEq, Repr

end Sys2Proof
end

