-- ==== Sys2Proof/WellFormed.lean ====
section
/-! DEFINITION. What a command must satisfy to be submitted, and the names of the ways a packet can be
illegal (30_encoding.md R53).

The operand types already hold every field to its width (a Boolean, bytes, strings of bytes), so the one
check left is the packet length against PKT_MAX (condition I2). -/

namespace Sys2Proof

/-- Number of words of the payload of `strings`: one per character, one EOS per string, one END
(30_encoding.md R49, R50). -/
def payloadLength : List CharString → Nat
  | [] => 1
  | s :: rest => s.length + 1 + payloadLength rest

/-- Number of words of the packet of a command (30_encoding.md R44). -/
def Instr.packetLength : Instr → Nat
  | .alloff => 1
  | .init _ => 1
  | .clear => 1
  | .home => 1
  | .dir _ => 1
  | .curl => 1
  | .curr => 1
  | .shl => 1
  | .shr => 1
  | .sendb _ => 1
  | .stream strings => 1 + payloadLength strings
  | .print strings _ => 1 + payloadLength strings

/-- `n` words are within PKT_MAX, if PKT_MAX is given (30_encoding.md R53, I2). -/
def withinPktMax (pktMax : Option Nat) (n : Nat) : Bool :=
  match pktMax with
  | none => true
  | some m => decide (n ≤ m)

/-- A command can be submitted to an instance with this PKT_MAX. -/
def Instr.wellFormed (pktMax : Option Nat) (i : Instr) : Bool :=
  withinPktMax pktMax i.packetLength

/-- The thirteen conditions that make a packet illegal (30_encoding.md R53). Which one was met is not
recorded by the block and cannot be observed (60_exceptions.md R83); the decoder names the one it finds. -/
inductive Illegal where
  /-- I1: the packet has no word. -/
  | emptyPacket
  /-- I2: the packet is longer than PKT_MAX. -/
  | packetTooLong
  /-- I3: `OP` is 0xC to 0xF. -/
  | reservedOp
  /-- I4: `Z` is not 0. -/
  | reservedBits
  /-- I5: `F` is 1 and the command is neither INIT nor DIR. -/
  | flagNotAllowed
  /-- I6: `IMM` is not 0 and the command is neither SENDB nor PRINT. -/
  | immNotAllowed
  /-- I7: words after the command word of a command without payload. -/
  | extraWords
  /-- I8: the payload has no END token. -/
  | noEnd
  /-- I9: a token of kind 0b11. -/
  | reservedToken
  /-- I10: a CHAR token with a code above 255. -/
  | charTooLarge
  /-- I11: an EOS or END token whose `CODE` is not 0. -/
  | codeNotZero
  /-- I12: END while a string is open. -/
  | endInsideString
  /-- I13: words after the END token. -/
  | wordsAfterEnd
  deriving DecidableEq, Repr

end Sys2Proof
end

