-- ==== Sys2Proof/Decode.lean ====
section
/-! DEFINITION. The decoder (30_encoding.md R56), the encoder (R60) and the packet-length scan (R55).
The decoder is total: any list of words gives a command or the name of a condition that makes it illegal. -/

namespace Sys2Proof

/-! ### Fields (30_encoding.md R45, R49; field extraction of 44_arithmetic_control.md R113 (b)) -/

/-- `OP`, bits 15:12 of the command word. -/
def Word.opField (w : Word) : BitVec 4 := w.extractLsb' 12 4

/-- `Z`, bits 11:9 of the command word. -/
def Word.zField (w : Word) : BitVec 3 := w.extractLsb' 9 3

/-- `F`, bit 8 of the command word. -/
def Word.fField (w : Word) : Bool := w.getLsbD 8

/-- `IMM`, bits 7:0 of the command word. -/
def Word.immField (w : Word) : Byte := w.extractLsb' 0 8

/-- `K`, bits 15:14 of a token. -/
def Word.kField (w : Word) : BitVec 2 := w.extractLsb' 14 2

/-- `CODE`, bits 13:0 of a token. -/
def Word.codeField (w : Word) : BitVec 14 := w.extractLsb' 0 14

/-- The command has a payload: STREAM (0xA) or PRINT (0xB). -/
def hasPayload (op : BitVec 4) : Bool := op == 0xA#4 || op == 0xB#4

/-! ### Decoding -/

/-- The payload scan of 30_encoding.md R56. `opened` is the spec's `open`: a CHAR has been read since the
last EOS. `cur` holds the characters of the string being read, `strs` the strings already closed. -/
def decodePayload (opened : Bool) (cur : CharString) (strs : List CharString) :
    List Word → Except Illegal (List CharString)
  | [] => .error .noEnd
  | t :: rest =>
    if t.kField = 0b00#2 then
      if t.codeField.toNat > 255 then .error .charTooLarge
      else decodePayload true (cur ++ [t.codeField.extractLsb' 0 8]) strs rest
    else if t.kField = 0b01#2 then
      if t.codeField ≠ 0#14 then .error .codeNotZero
      else decodePayload false [] (strs ++ [cur]) rest
    else if t.kField = 0b10#2 then
      if t.codeField ≠ 0#14 then .error .codeNotZero
      else if opened then .error .endInsideString
      else if rest ≠ [] then .error .wordsAfterEnd
      else .ok strs
    else .error .reservedToken

/-- The commands without payload, by `OP` (30_encoding.md R47, R56). -/
def decodeShort (op : BitVec 4) (f : Bool) (imm : Byte) : Except Illegal Instr :=
  match op.toNat with
  | 0x0 => .ok .alloff
  | 0x1 => .ok (.init f)
  | 0x2 => .ok .clear
  | 0x3 => .ok .home
  | 0x4 => .ok (.dir f)
  | 0x5 => .ok .curl
  | 0x6 => .ok .curr
  | 0x7 => .ok .shl
  | 0x8 => .ok .shr
  | 0x9 => .ok (.sendb imm)
  | _ => .error .reservedOp

/-- A command word that passed the field checks, with the words after it (30_encoding.md R56). -/
def decodeBody (cw : Word) (rest : List Word) : Except Illegal Instr :=
  if hasPayload cw.opField then
    match decodePayload false [] [] rest with
    | .error e => .error e
    | .ok strs => if cw.opField = 0xA#4 then .ok (.stream strs) else .ok (.print strs cw.immField)
  else if rest ≠ [] then .error .extraWords
  else decodeShort cw.opField cw.fField cw.immField

/-- `decode` of 30_encoding.md R56, with its tests in its order. -/
def decode (pktMax : Option Nat) : Packet → Except Illegal Instr
  | [] => .error .emptyPacket
  | cw :: rest =>
    if withinPktMax pktMax (rest.length + 1) = false then .error .packetTooLong
    else if cw.zField ≠ 0#3 then .error .reservedBits
    else if 0xC#4 ≤ cw.opField then .error .reservedOp
    else if cw.fField = true ∧ cw.opField ≠ 0x1#4 ∧ cw.opField ≠ 0x4#4 then .error .flagNotAllowed
    else if cw.immField ≠ 0#8 ∧ cw.opField ≠ 0x9#4 ∧ cw.opField ≠ 0xB#4 then .error .immNotAllowed
    else decodeBody cw rest

/-! ### Length of a packet (30_encoding.md R55) -/

/-- Number of words up to and including the first END token, if there is one. -/
def endScan : List Word → Option Nat
  | [] => none
  | t :: rest => if t.kField = 0b10#2 then some 1 else (endScan rest).map (· + 1)

/-- How many of the words of a stream make up the packet that starts it: one, or up to and including the
first word after the command word with bits 15:14 equal to 0b10. -/
def packetExtent : List Word → Option Nat
  | [] => none
  | cw :: rest => if hasPayload cw.opField then (endScan rest).map (· + 1) else some 1

/-! ### Encoding (30_encoding.md R60) -/

/-- The command word `OP Z F IMM` with `Z = 0` (30_encoding.md R45). -/
def commandWord (op : BitVec 4) (f : Bool) (imm : Byte) : Word := op ++ 0#3 ++ BitVec.ofBool f ++ imm

/-- CHAR token of a character code: `0x0000 + c` (30_encoding.md R49). -/
def charToken (c : Byte) : Word := 0#8 ++ c

/-- EOS token (30_encoding.md R49). -/
def eosToken : Word := 0x4000#16

/-- END token (30_encoding.md R49). -/
def endToken : Word := 0x8000#16

/-- `tok(strings)`: each string's CHAR tokens and its EOS, then END (30_encoding.md R60). -/
def encodePayload : List CharString → List Word
  | [] => [endToken]
  | s :: rest => s.map charToken ++ eosToken :: encodePayload rest

/-- `encode` of 30_encoding.md R60. -/
def encode : Instr → Packet
  | .alloff => [commandWord 0x0#4 false 0#8]
  | .init f => [commandWord 0x1#4 f 0#8]
  | .clear => [commandWord 0x2#4 false 0#8]
  | .home => [commandWord 0x3#4 false 0#8]
  | .dir f => [commandWord 0x4#4 f 0#8]
  | .curl => [commandWord 0x5#4 false 0#8]
  | .curr => [commandWord 0x6#4 false 0#8]
  | .shl => [commandWord 0x7#4 false 0#8]
  | .shr => [commandWord 0x8#4 false 0#8]
  | .sendb v => [commandWord 0x9#4 false v]
  | .stream strings => commandWord 0xA#4 false 0#8 :: encodePayload strings
  | .print strings w => commandWord 0xB#4 false w :: encodePayload strings

/-! ### The host's numbering of an instruction's bits -/

/-- The `n` words of the number `w`, first word in its low 16 bits. -/
def wordsOf : Nat → Nat → List Word
  | 0, _ => []
  | n + 1, w => BitVec.ofNat 16 w :: wordsOf n (w / 65536)

/-- The packet that stands for the `nbits` bits of the number `w`, as spec/opcode_table.json numbers them
(bit 0 is bit 0 of `P[0]`). A command word of STREAM or PRINT alone gets the payload of no strings, the
END token: the table gives the payload no bits, and no packet of these two commands has words of zeros
only in it. DESIGN CHOICE, safe, log 13. -/
def tablePacket (nbits w : Nat) : Packet :=
  match wordsOf ((nbits + 15) / 16) w with
  | [cw] => if hasPayload cw.opField then [cw, endToken] else [cw]
  | P => P

/-- The instruction the decoder reads from the packet of `nbits` and `w`, PKT_MAX not given. -/
def decodeTableWord (nbits w : Nat) : Option Instr :=
  match decode none (tablePacket nbits w) with
  | .ok i => some i
  | .error _ => none

end Sys2Proof
end

