-- ==== Sys2Proof/Machine/State.lean ====
section
/-! DEFINITION. The state of the block (10_state.md), its inputs and the observer's record, all plain data;
its value at reset; the reasons a step can stop. -/

namespace Sys2Proof.Machine

/-- The 11 pins (10_state.md R9). -/
inductive Pin where
  | d0 | d1 | d2 | d3 | d4 | d5 | d6 | d7 | rs | rw | e
  deriving DecidableEq, Repr

/-- What a latch holds: a level, or `U`, of which nothing may be assumed (00_scope.md section 5.1). -/
inductive Latch where
  | level (v : Level)
  | unknown
  deriving DecidableEq, Repr

/-- The 11 output latches `PIN[0..10]` (10_state.md R9). -/
structure Pins where
  d0 : Latch
  d1 : Latch
  d2 : Latch
  d3 : Latch
  d4 : Latch
  d5 : Latch
  d6 : Latch
  d7 : Latch
  rs : Latch
  rw : Latch
  e  : Latch
  deriving DecidableEq, Repr

/-- An event: `W(p, v)` or `S` (00_scope.md R6). -/
inductive Event where
  | write (p : Pin) (v : Level)
  | sleep
  deriving DecidableEq, Repr

/-- The pin port's answer to a write (20_memory.md R26). -/
inductive PinAnswer where
  | ok
  | err
  deriving DecidableEq, Repr

/-- An event as the observer records it: a write with its answer, or a sleep (00_scope.md R6). -/
inductive TraceEvent where
  | write (p : Pin) (v : Level) (a : PinAnswer)
  | sleep
  deriving DecidableEq, Repr

/-- SEQ, the mode of the sequencer (10_state.md R15). -/
inductive Seq where
  | idle
  | run
  | sleep
  deriving DecidableEq, Repr

/-- STATUS.RES, the result of the last packet submitted (10_state.md R18). -/
inductive Res where
  | none
  | ok
  | pinError
  | illegal
  deriving DecidableEq, Repr

/-- STATUS, its three fields (10_state.md R18). -/
structure Status where
  busy   : Bool
  res    : Res
  errPin : BitVec 4
  deriving DecidableEq, Repr

/-- The state of the block (10_state.md, overview), the parameters of the instance (00_scope.md R5), the
inputs still to come, and the observer's record. -/
structure State where
  /-- PIN[0..10], 10_state.md R9. -/
  pins    : Pins
  /-- SETTLE in microseconds, read-only, 10_state.md R13. -/
  settle  : Nat
  /-- TMR, 10_state.md R14. -/
  tmr     : Nat
  /-- SEQ, 10_state.md R15. -/
  seq     : Seq
  /-- EV, 10_state.md R16. -/
  ev      : List Event
  /-- UPC, 10_state.md R16. -/
  upc     : Nat
  /-- STATUS, 10_state.md R18. -/
  status  : Status
  /-- T_TICK and PKT_MAX of this instance, 00_scope.md R5; no step changes them. -/
  params  : Params
  /-- The levels of the `rst` input at the coming steps, the next step's first; low past the end (log 5). -/
  rst     : List Level
  /-- What the host drives on the command port: `some P` is `cmd_valid` with `cmd_pkt = P`, held until it is
  taken; `none` is `cmd_valid` low for one step of an idle block; low past the end (log 4). -/
  cmdPort : List (Option Packet)
  /-- What the pin port drives at the coming steps with a write outstanding: `some a` is `pin_ack` with
  answer `a`; `none` is `pin_ack` low; low past the end (log 3). -/
  pinPort : List (Option PinAnswer)
  /-- The observer's record of the events issued, oldest first, 00_scope.md R6 (log 7). -/
  trace   : List TraceEvent
  /-- The observer's record of RES and ERRPIN, one pair per packet that ended, 70_reset_and_hazards.md R112
  (log 7). -/
  results : List (Res × BitVec 4)
  deriving DecidableEq, Repr

/-- Why a step stops. -/
inductive Fault where
  /-- Raised by the sequencer in mode RUN when UPC is above len(EV), a state that 10_state.md R16 excludes and
  no run reaches. Safe: the spec gives such a state no next one (log 8). -/
  | upcOutOfRange
  deriving DecidableEq, Repr

/-- Why an instruction has no meaning. -/
inductive Refusal where
  /-- Raised by an arm of `exec` that has no meaning yet; no arm raises it in this model. Safe. -/
  | notModelled (mnemonic : String)
  deriving DecidableEq, Repr

/-- Every latch `U` (10_state.md R23). -/
def Pins.unknown : Pins where
  d0 := .unknown
  d1 := .unknown
  d2 := .unknown
  d3 := .unknown
  d4 := .unknown
  d5 := .unknown
  d6 := .unknown
  d7 := .unknown
  rs := .unknown
  rw := .unknown
  e  := .unknown

/-- STATUS at reset: BUSY 0, RES NONE, ERRPIN 0 (10_state.md R23). -/
def Status.reset : Status where
  busy   := false
  res    := .none
  errPin := 0#4

/-- The block right after reset (10_state.md R23, 70_reset_and_hazards.md R95, R96). The parameters left OPEN are
not given (log 1, 2), no input is scripted (log 3, 4, 5) and nothing has been recorded (log 7). -/
def State.reset : State where
  pins    := Pins.unknown
  settle  := Config.settleUs
  tmr     := 0
  seq     := .idle
  ev      := []
  upc     := 0
  status  := Status.reset
  params  := { tTick := none, pktMax := none }
  rst     := []
  cmdPort := []
  pinPort := []
  trace   := []
  results := []

end Sys2Proof.Machine
end

