-- ==== Sys2Proof/Machine/Operands.lean ====
section
/-! DEFINITION. The operand arithmetic of the commands (44_arithmetic_control.md R113), pin indices
(20_memory.md R35), the named bus bytes (30_encoding.md R59) and the building blocks of event lists: `B(v)`, `OFF`,
`E+`, `E-`, the framings (30_encoding.md R43), the character cell (43_stream_commands.md R72) and the padding function
(R74). -/

namespace Sys2Proof.Machine

/-! ### Pin indices -/

/-- The index of a pin: D0..D7 are 0..7, RS 8, RW 9, E 10 (10_state.md R9, 20_memory.md R35). -/
def Pin.index : Pin → BitVec 4
  | .d0 => 0#4
  | .d1 => 1#4
  | .d2 => 2#4
  | .d3 => 3#4
  | .d4 => 4#4
  | .d5 => 5#4
  | .d6 => 6#4
  | .d7 => 7#4
  | .rs => 8#4
  | .rw => 9#4
  | .e => 10#4

/-- The data pins in index order, D0 (least significant) first (20_memory.md R30). -/
def dataPins : List Pin := [.d0, .d1, .d2, .d3, .d4, .d5, .d6, .d7]

/-- All pins in index order. -/
def allPins : List Pin := dataPins ++ [.rs, .rw, .e]

/-! ### Arithmetic -/

/-- `v[i]`, bit `i` of a byte (44_arithmetic_control.md R113 (a)). -/
def bitOf (v : Byte) (i : Nat) : Level := v.getLsbD i

/-- SP, the code of the pad character, 0x20 (43_stream_commands.md R74). -/
def spaceCode : Byte := 0x20#8

/-- The pad count `w -. len(s)`, saturating at 0 (44_arithmetic_control.md R113 (d)). -/
def padCount (w : Byte) (s : CharString) : Nat := w.toNat - s.length

/-- `pad(w, s) = s ++ rep(w -. len(s), SP)` (43_stream_commands.md R74). -/
def pad (w : Byte) (s : CharString) : CharString := s ++ List.replicate (padCount w s) spaceCode

/-! ### Named bus bytes (30_encoding.md R59) -/

def BusByte.clear : Byte := 0x01#8
def BusByte.home : Byte := 0x02#8
def BusByte.entryModeRtl : Byte := 0x04#8
def BusByte.entryModeLtr : Byte := 0x06#8
def BusByte.displayOn : Byte := 0x0C#8
def BusByte.displayOnCursor : Byte := 0x0F#8
def BusByte.shiftCursorLeft : Byte := 0x10#8
def BusByte.shiftCursorRight : Byte := 0x14#8
def BusByte.shiftDisplayLeft : Byte := 0x18#8
def BusByte.shiftDisplayRight : Byte := 0x1C#8

/-! ### Building blocks of event lists -/

/-- `E+`, `W(E,1)`. -/
def eRise : Event := .write .e true

/-- `E-`, `W(E,0)`. -/
def eFall : Event := .write .e false

/-- `B(v)`: the eight writes of SENDB, in ascending pin order (40_primitives.md R61). -/
def busWrites (v : Byte) : List Event :=
  [.write .d0 (bitOf v 0), .write .d1 (bitOf v 1), .write .d2 (bitOf v 2), .write .d3 (bitOf v 3),
   .write .d4 (bitOf v 4), .write .d5 (bitOf v 5), .write .d6 (bitOf v 6), .write .d7 (bitOf v 7)]

/-- `OFF`: the eleven writes of ALLOFF, RS, RW, E, then D0 to D7 (40_primitives.md R62). -/
def offWrites : List Event :=
  [.write .rs false, .write .rw false, .write .e false,
   .write .d0 false, .write .d1 false, .write .d2 false, .write .d3 false,
   .write .d4 false, .write .d5 false, .write .d6 false, .write .d7 false]

/-- Framing SET: `OFF, E+`, the selected data pins to 1, `E-` (30_encoding.md R43). -/
def framingSet (selected : List Pin) : List Event :=
  offWrites ++ eRise :: selected.map (fun p => .write p true) ++ [eFall]

/-- Framing EB: `E+, B(v), E-` (30_encoding.md R43). -/
def framingEB (v : Byte) : List Event := eRise :: busWrites v ++ [eFall]

/-- Framing BES: `B(v), E+, S, E-` (30_encoding.md R43). -/
def framingBES (v : Byte) : List Event := busWrites v ++ [eRise, .sleep, eFall]

/-- Framing EBS, the character cell `cell(c)`: `E+, B(c), S, E-` (30_encoding.md R43, 43_stream_commands.md R72). -/
def framingEBS (c : Byte) : List Event := eRise :: busWrites c ++ [.sleep, eFall]

/-- The cells of every character of every string, in order (43_stream_commands.md R73). -/
def cells (strings : List CharString) : List Event := strings.flatten.flatMap framingEBS

/-- `OFF, RS+`, the cells, `RS-` (43_stream_commands.md R73). -/
def streamEvents (strings : List CharString) : List Event :=
  offWrites ++ .write .rs true :: cells strings ++ [.write .rs false]

end Sys2Proof.Machine
end

