-- ==== Sys2Proof/Machine/Flags.lean ====
section
/-! DEFINITION. The STATUS register (10_state.md R18) and its value after each of the points at which it changes
(R19). -/

namespace Sys2Proof.Machine

/-- The code of RES in STATUS[2:1] (10_state.md R18, 60_exceptions.md R77). -/
def Res.code : Res → BitVec 2
  | .none => 0b00#2
  | .ok => 0b01#2
  | .pinError => 0b10#2
  | .illegal => 0b11#2

/-- STATUS as the 8 bits the host reads: BUSY in bit 0, RES in 2:1, ERRPIN in 6:3, bit 7 reads 0
(10_state.md R18). -/
def Status.word (st : Status) : BitVec 8 := 0#1 ++ st.errPin ++ st.res.code ++ BitVec.ofBool st.busy

/-- A legal packet was submitted: ERRPIN 0, BUSY 1, RES NONE (10_state.md R19). -/
def Status.accepted : Status := { busy := true, res := .none, errPin := 0#4 }

/-- An illegal packet was submitted: ERRPIN 0, RES ILLEGAL, BUSY stays (10_state.md R19, 60_exceptions.md R80). -/
def Status.afterIllegal (st : Status) : Status := { st with res := .illegal, errPin := 0#4 }

/-- The command completed: BUSY 0, RES OK (10_state.md R19). -/
def Status.afterComplete (st : Status) : Status := { st with busy := false, res := .ok }

/-- `PinError(p)` was raised: BUSY 0, RES PIN_ERROR, ERRPIN p (10_state.md R19, 60_exceptions.md R79). -/
def Status.afterPinError (p : Pin) : Status := { busy := false, res := .pinError, errPin := p.index }

end Sys2Proof.Machine
end

