-- ==== Sys2Proof/Machine/Ops.lean ====
section
/-! DEFINITION. The operations the commands and the sequencer share: latches, accepting a command, the store primitive
`PinWrite`, the two errors, the sleep, the end of a command, reset. -/

namespace Sys2Proof.Machine

/-! ### Latches -/

/-- `PIN[p]`. No command reads a latch (20_memory.md R29); outputs and statements do. -/
def Pins.get (pins : Pins) : Pin → Latch
  | .d0 => pins.d0
  | .d1 => pins.d1
  | .d2 => pins.d2
  | .d3 => pins.d3
  | .d4 => pins.d4
  | .d5 => pins.d5
  | .d6 => pins.d6
  | .d7 => pins.d7
  | .rs => pins.rs
  | .rw => pins.rw
  | .e => pins.e

/-- `PIN[p] <- l` (00_scope.md section 5.4). -/
def Pins.set (pins : Pins) (p : Pin) (l : Latch) : Pins :=
  match p with
  | .d0 => { pins with d0 := l }
  | .d1 => { pins with d1 := l }
  | .d2 => { pins with d2 := l }
  | .d3 => { pins with d3 := l }
  | .d4 => { pins with d4 := l }
  | .d5 => { pins with d5 := l }
  | .d6 => { pins with d6 := l }
  | .d7 => { pins with d7 := l }
  | .rs => { pins with rs := l }
  | .rw => { pins with rw := l }
  | .e => { pins with e := l }

/-- The value of the data latch `l` as one bit, if it has one. -/
def Latch.bit? : Latch → Option Level
  | .level v => some v
  | .unknown => none

/-- DB, the 8-bit view of the data latches, which has a value only when none of them is `U`
(10_state.md R10, 00_scope.md section 5.2). -/
def Pins.db? (pins : Pins) : Option Byte :=
  match pins.d7.bit?, pins.d6.bit?, pins.d5.bit?, pins.d4.bit?,
    pins.d3.bit?, pins.d2.bit?, pins.d1.bit?, pins.d0.bit? with
  | some b7, some b6, some b5, some b4, some b3, some b2, some b1, some b0 =>
    some (BitVec.ofBool b7 ++ BitVec.ofBool b6 ++ BitVec.ofBool b5 ++ BitVec.ofBool b4 ++
      BitVec.ofBool b3 ++ BitVec.ofBool b2 ++ BitVec.ofBool b1 ++ BitVec.ofBool b0)
  | _, _, _, _, _, _, _, _ => none

/-- The data latches set to the bits of `v`, the control lines kept (10_state.md R10). -/
def Pins.withDb (pins : Pins) (v : Byte) : Pins :=
  { pins with
    d0 := .level (bitOf v 0), d1 := .level (bitOf v 1), d2 := .level (bitOf v 2), d3 := .level (bitOf v 3),
    d4 := .level (bitOf v 4), d5 := .level (bitOf v 5), d6 := .level (bitOf v 6), d7 := .level (bitOf v 7) }

/-! ### The settle timer (60_exceptions.md R89) -/

/-- `ceil(SETTLE_US * 1000 / T_TICK)` for a settle duration in microseconds and a period in nanoseconds. -/
def ceilTicks (settleUs : Nat) (p : Period) : Nat := (settleUs * 1000 * p.den + p.num - 1) / p.num

/-- SETTLE_TICKS of this instance. With no T_TICK given the sleep is not counted in ticks and lasts one step of mode
SLEEP (10_state.md R17, last sentence; DESIGN CHOICE, log 1). -/
def settleTicks (s : State) : Nat :=
  match s.params.tTick with
  | none => 0
  | some p => ceilTicks s.settle p

/-! ### Accepting a command -/

/-- A decoded command is accepted: `EV <- evs; UPC <- 0; SEQ <- RUN`, STATUS as in 10_state.md R19. Only an idle block
accepts; a busy one holds the command off and does not change (20_memory.md R39; log 9). -/
def accept (evs : List Event) (s : State) : State :=
  match s.seq with
  | .idle => { s with ev := evs, upc := 0, seq := .run, status := Status.accepted }
  | .run => s
  | .sleep => s

/-! ### The end of a command -/

/-- SEQ, EV, UPC and TMR of an idle block (10_state.md R16, R17, 60_exceptions.md R79). -/
def toIdle (s : State) : State := { s with seq := .idle, ev := [], upc := 0, tmr := 0 }

/-- STATUS takes the outcome of a packet and the observer records RES and ERRPIN (10_state.md R19,
70_reset_and_hazards.md R112). -/
def report (st : Status) (s : State) : State :=
  { s with status := st, results := s.results ++ [(st.res, st.errPin)] }

/-- The command has completed, `UPC = len(EV)` (10_state.md R17). TMR is 0 already (R14). -/
def complete (s : State) : State := report s.status.afterComplete (toIdle s)

/-! ### The errors: the one place where an exception is taken. There is no handler and no return (60_exceptions.md R85). -/

/-- `raise PinError(p)` (60_exceptions.md R79). -/
def raisePinError (p : Pin) (s : State) : State := report (Status.afterPinError p) (toIdle s)

/-- `raise Illegal` (60_exceptions.md R80): nothing but STATUS changes. -/
def raiseIllegal (s : State) : State := report s.status.afterIllegal s

/-! ### Events -/

/-- The observer records an event. -/
def record (e : TraceEvent) (s : State) : State := { s with trace := s.trace ++ [e] }

/-- `PIN[p] <- l` in the state. -/
def setLatch (p : Pin) (l : Latch) (s : State) : State := { s with pins := s.pins.set p l }

/-- `UPC <- UPC + 1` (10_state.md R16). -/
def advance (s : State) : State := { s with upc := s.upc + 1 }

/-- `PinWrite(p, v)` (20_memory.md R26) as one step with the write outstanding: the pin port has not answered yet and
nothing changes (60_exceptions.md R84), or it answers `ok`, or it answers `err`. -/
def pinWrite (p : Pin) (v : Level) (s : State) : State :=
  match s.pinPort with
  | [] => s
  | none :: port => { s with pinPort := port }
  | some .ok :: port => advance (setLatch p (.level v) (record (.write p v .ok) { s with pinPort := port }))
  | some .err :: port => raisePinError p (setLatch p .unknown (record (.write p v .err) { s with pinPort := port }))

/-- `S` is issued: `TMR <- SETTLE_TICKS; SEQ <- SLEEP` (10_state.md R17, 60_exceptions.md R89). -/
def startSleep (s : State) : State := record .sleep { s with tmr := settleTicks s, seq := .sleep }

/-- One tick in mode SLEEP (10_state.md R17, 60_exceptions.md R89). -/
def sleepTick (s : State) : State :=
  if s.tmr = 0 then advance { s with seq := .run } else { s with tmr := s.tmr - 1 }

/-! ### Reset -/

/-- `rst` is asserted: the block takes its reset state whatever it was doing (70_reset_and_hazards.md R95, R97). SETTLE and
the parameters are constants of the instance (10_state.md R13); the inputs and the observer's record are not the
block's and stay (DESIGN CHOICE, log 6). -/
def resetBlock (s : State) : State :=
  { toIdle s with pins := Pins.unknown, status := Status.reset }

end Sys2Proof.Machine
end

