-- ==== Sys2Proof/Machine/DisplayCommands.lean ====
section
/-! DEFINITION. INIT, CLEAR, HOME, DIR (41_display_commands.md). -/

namespace Sys2Proof.Machine

/-- The data pins INIT raises, in the order of 41_display_commands.md R63. -/
def initPins (showCursor : Bool) : List Pin :=
  if showCursor then [.d0, .d1, .d2, .d3] else [.d2, .d3]

/-- `events(INIT(f))` (41_display_commands.md R63). -/
def eventsInit (showCursor : Bool) : List Event := framingSet (initPins showCursor)

/-- INIT (41_display_commands.md R63). -/
def execInit (showCursor : Bool) (s : State) : Host.Outcome State Fault Refusal :=
  .next (accept (eventsInit showCursor) s)

/-- `events(CLEAR)` (41_display_commands.md R64): no sleep. -/
def eventsClear : List Event := framingSet [.d0]

/-- CLEAR (41_display_commands.md R64). -/
def execClear (s : State) : Host.Outcome State Fault Refusal := .next (accept eventsClear s)

/-- `events(HOME)` (41_display_commands.md R65). -/
def eventsHome : List Event := framingEB BusByte.home

/-- HOME (41_display_commands.md R65). -/
def execHome (s : State) : Host.Outcome State Fault Refusal := .next (accept eventsHome s)

/-- The entry-mode byte, 0x04 for right-to-left, 0x06 for left-to-right (41_display_commands.md R66). -/
def dirByte (rightToLeft : Bool) : Byte :=
  if rightToLeft then BusByte.entryModeRtl else BusByte.entryModeLtr

/-- `events(DIR(f))` (41_display_commands.md R66). -/
def eventsDir (rightToLeft : Bool) : List Event := framingEB (dirByte rightToLeft)

/-- DIR (41_display_commands.md R66). -/
def execDir (rightToLeft : Bool) (s : State) : Host.Outcome State Fault Refusal :=
  .next (accept (eventsDir rightToLeft) s)

end Sys2Proof.Machine
end

