-- ==== Sys2Proof/Machine/Primitives.lean ====
section
/-! DEFINITION. The primitives SENDB and ALLOFF (40_primitives.md). -/

namespace Sys2Proof.Machine

/-- `events(SENDB(v))` (40_primitives.md R61). -/
def eventsSendb (v : Byte) : List Event := busWrites v

/-- SENDB (40_primitives.md R61). -/
def execSendb (v : Byte) (s : State) : Host.Outcome State Fault Refusal := .next (accept (eventsSendb v) s)

/-- `events(ALLOFF)` (40_primitives.md R62). -/
def eventsAlloff : List Event := offWrites

/-- ALLOFF (40_primitives.md R62). -/
def execAlloff (s : State) : Host.Outcome State Fault Refusal := .next (accept eventsAlloff s)

end Sys2Proof.Machine
end

