-- ==== Sys2Proof/Machine/ShiftCommands.lean ====
section
/-! DEFINITION. CURL, CURR, SHL, SHR (42_shift_commands.md). The asymmetry of R67 is the source's and is kept: the two left
commands use framing BES with one sleep, the two right ones EB with none. -/

namespace Sys2Proof.Machine

/-- `events(CURL)` (42_shift_commands.md R68). -/
def eventsCurl : List Event := framingBES BusByte.shiftCursorLeft

/-- CURL (42_shift_commands.md R68). -/
def execCurl (s : State) : Host.Outcome State Fault Refusal := .next (accept eventsCurl s)

/-- `events(CURR)` (42_shift_commands.md R69). -/
def eventsCurr : List Event := framingEB BusByte.shiftCursorRight

/-- CURR (42_shift_commands.md R69). -/
def execCurr (s : State) : Host.Outcome State Fault Refusal := .next (accept eventsCurr s)

/-- `events(SHL)` (42_shift_commands.md R70). -/
def eventsShl : List Event := framingBES BusByte.shiftDisplayLeft

/-- SHL (42_shift_commands.md R70). -/
def execShl (s : State) : Host.Outcome State Fault Refusal := .next (accept eventsShl s)

/-- `events(SHR)` (42_shift_commands.md R71). -/
def eventsShr : List Event := framingEB BusByte.shiftDisplayRight

/-- SHR (42_shift_commands.md R71). -/
def execShr (s : State) : Host.Outcome State Fault Refusal := .next (accept eventsShr s)

end Sys2Proof.Machine
end

