-- ==== Sys2Proof/Machine/StreamCommands.lean ====
section
/-! DEFINITION. STREAM and PRINT (43_stream_commands.md). -/

namespace Sys2Proof.Machine

/-- `events(STREAM(strings))` (43_stream_commands.md R73). -/
def eventsStream (strings : List CharString) : List Event := streamEvents strings

/-- STREAM (43_stream_commands.md R73). -/
def execStream (strings : List CharString) (s : State) : Host.Outcome State Fault Refusal :=
  .next (accept (eventsStream strings) s)

/-- `events(PRINT(strings, w))`: every string padded, then as STREAM (43_stream_commands.md R75). -/
def eventsPrint (strings : List CharString) (width : Byte) : List Event :=
  streamEvents (strings.map (pad width))

/-- PRINT (43_stream_commands.md R75). -/
def execPrint (strings : List CharString) (width : Byte) (s : State) : Host.Outcome State Fault Refusal :=
  .next (accept (eventsPrint strings width) s)

end Sys2Proof.Machine
end

