-- ==== Sys2Proof/Machine/Events.lean ====
section
/-! DEFINITION. `events(c)`: the event list of every command, a function of the command alone (00_scope.md R6). -/

namespace Sys2Proof.Machine

/-- `events(c)` (00_scope.md R6), command by command. -/
def events : Instr → List Event
  | .alloff => eventsAlloff
  | .init f => eventsInit f
  | .clear => eventsClear
  | .home => eventsHome
  | .dir f => eventsDir f
  | .curl => eventsCurl
  | .curr => eventsCurr
  | .shl => eventsShl
  | .shr => eventsShr
  | .sendb v => eventsSendb v
  | .stream strings => eventsStream strings
  | .print strings w => eventsPrint strings w

end Sys2Proof.Machine
end

