-- ==== Sys2Proof/Machine/Dispatch.lean ====
section
/-! DEFINITION. One arm per command: what a command does when it is submitted to the block. -/

namespace Sys2Proof.Machine

-- The meaning of a decoded command (10_state.md R19): its event list is loaded and the sequencer set running.
def exec (i : Instr) (s : State) : Host.Outcome State Fault Refusal :=
  match i with
  | .alloff => Sys2Proof.Machine.execAlloff s
  | .init f => Sys2Proof.Machine.execInit f s
  | .clear => Sys2Proof.Machine.execClear s
  | .home => Sys2Proof.Machine.execHome s
  | .dir f => Sys2Proof.Machine.execDir f s
  | .curl => Sys2Proof.Machine.execCurl s
  | .curr => Sys2Proof.Machine.execCurr s
  | .shl => Sys2Proof.Machine.execShl s
  | .shr => Sys2Proof.Machine.execShr s
  | .sendb v => Sys2Proof.Machine.execSendb v s
  | .stream strings => Sys2Proof.Machine.execStream strings s
  | .print strings w => Sys2Proof.Machine.execPrint strings w s

end Sys2Proof.Machine
end

