-- ==== Sys2Proof/Machine/Sequencer.lean ====
section
/-! DEFINITION. One step of the block: the sequencer in each mode (10_state.md R17), the submission of a packet (R19), and
the `rst` input over both (70_reset_and_hazards.md R95, R97). -/

namespace Sys2Proof.Machine

/-- Mode IDLE: take the packet the host presents, if any (10_state.md R19, 20_memory.md R39). -/
def stepIdle (s : State) : Host.Outcome State Fault Refusal :=
  match s.cmdPort with
  | [] => .next s
  | none :: port => .next { s with cmdPort := port }
  | some P :: port =>
    match decode s.params.pktMax P with
    | .error _ => .next (raiseIllegal { s with cmdPort := port })
    | .ok i => exec i { s with cmdPort := port }

/-- Mode RUN: finish, or issue the event `EV[UPC]` (10_state.md R17). -/
def stepRun (s : State) : Host.Outcome State Fault Refusal :=
  if s.upc = s.ev.length then .next (complete s)
  else
    match s.ev[s.upc]? with
    | some (.write p v) => .next (pinWrite p v s)
    | some .sleep => .next (startSleep s)
    | none => .fault .upcOutOfRange

/-- The level of `rst` at this step. -/
def rstNow (s : State) : Level := s.rst.headD false

/-- The level of `rst` at this step has been used. -/
def tickRst (s : State) : State := { s with rst := s.rst.tail }

/-- The step of the sequencer with `rst` low (10_state.md R17). -/
def stepSequencer (s : State) : Host.Outcome State Fault Refusal :=
  match s.seq with
  | .idle => stepIdle s
  | .run => stepRun s
  | .sleep => .next (sleepTick s)

/-- One step of the block: reset wins over everything else (70_reset_and_hazards.md R97; log 5). -/
def stepBlock (s : State) : Host.Outcome State Fault Refusal :=
  if rstNow s = true then .next (resetBlock (tickRst s)) else stepSequencer (tickRst s)

/-- `s` made ready to take the packet `P` at its next step: `rst` low at that step, the sequencer idle, `P` first on the
command port (log 10). -/
def presentPacket (P : Packet) (s : State) : State :=
  { toIdle s with
    rst := if rstNow s = true then false :: s.rst.tail else s.rst
    cmdPort := some P :: s.cmdPort
    status := { s.status with busy := false } }

end Sys2Proof.Machine
end

