-- ==== Sys2Proof/Machine/Step.lean ====
section
/-! DEFINITION. The step of the machine, and how a packet is placed for it. -/

namespace Sys2Proof.Machine

/-- One step of the block (10_state.md R17, R19; 70_reset_and_hazards.md R97). -/
def step (s : State) : Host.Outcome State Fault Refusal := stepBlock s

/-- `s` with the packet of the `nbits` bits of `w` presented on the command port, so that the next step takes it (log 10,
log 13). -/
def State.withFetchWord (s : State) (nbits w : Nat) : State := presentPacket (tablePacket nbits w) s

end Sys2Proof.Machine
end

