-- ==== Sys2Proof/Machine/Assembler.lean ====
section
/-! DEFINITION. The one-command-per-line assembler syntax of the spec (30_encoding.md R57), its aliases and its default line
width (R58), and the named bus bytes as operands of `sendb` (R59). It is a tool of the host, not a part of the block: no step
uses it. What the spec leaves open about the text is in log 14. -/

namespace Sys2Proof.Machine

/-- A token of an assembler line. -/
inductive AsmToken where
  /-- A name, in lower case (mnemonics are case-insensitive). -/
  | name (chars : List Char)
  | num (n : Nat)
  /-- A string literal, as its character codes. -/
  | str (codes : CharString)
  | punct (c : Char)
  deriving DecidableEq, Repr

/-- Where the scanner of a line is; the characters read so far are held last first. -/
inductive LexMode where
  | base
  | word (acc : List Char)
  | str (acc : CharString)
  | comment
  deriving DecidableEq, Repr

/-- A character of a name or number. -/
def isWordChar (c : Char) : Bool := c.isAlphanum || c == '_'

/-- The value of a hexadecimal digit, lower case. -/
def hexDigit? (c : Char) : Option Nat :=
  if c.isDigit then some (c.toNat - 48)
  else if 97 ≤ c.toNat ∧ c.toNat ≤ 102 then some (c.toNat - 87)
  else none

/-- A number in the given base, most significant digit first. -/
def digits? (base : Nat) : Nat → List Char → Option Nat
  | acc, [] => some acc
  | acc, c :: cs =>
    match hexDigit? c with
    | some d => if d < base then digits? base (acc * base + d) cs else none
    | none => none

/-- A word that starts with a digit is a number, decimal or `0x` hexadecimal (30_encoding.md R57); any other is a name. -/
def wordToken? : List Char → Option AsmToken
  | '0' :: 'x' :: c :: cs => (digits? 16 0 (c :: cs)).map .num
  | c :: cs => if c.isDigit then (digits? 10 0 (c :: cs)).map .num else some (.name (c :: cs))
  | [] => none

/-- One character outside words and strings. -/
def lexBase? (c : Char) : Option (List AsmToken × LexMode) :=
  if c = ';' then some ([], .comment)
  else if c = ' ' ∨ c = '\t' then some ([], .base)
  else if c = '"' then some ([], .str [])
  else if isWordChar c then some ([], .word [c.toLower])
  else if c ∈ [',', '=', '(', ')', '[', ']'] then some ([.punct c], .base)
  else none

/-- One character: the tokens it ends and the scanner's next mode. A string character must have a code of at most 255. -/
def lexChar? (mode : LexMode) (c : Char) : Option (List AsmToken × LexMode) :=
  match mode with
  | .comment => some ([], .comment)
  | .base => lexBase? c
  | .str acc =>
    if c = '"' then some ([.str acc.reverse], .base)
    else if c.toNat ≤ 255 then some ([], .str (BitVec.ofNat 8 c.toNat :: acc))
    else none
  | .word acc =>
    if isWordChar c then some ([], .word (c.toLower :: acc))
    else
      match wordToken? acc.reverse, lexBase? c with
      | some t, some (ts, m) => some (t :: ts, m)
      | _, _ => none

/-- The tokens of a line. -/
def lexLine? (mode : LexMode) : List Char → Option (List AsmToken)
  | [] =>
    match mode with
    | .base => some []
    | .comment => some []
    | .word acc => (wordToken? acc.reverse).map fun t => [t]
    | .str _ => none
  | c :: cs =>
    match lexChar? mode c with
    | some (ts, m) => (lexLine? m cs).map fun rest => ts ++ rest
    | none => none

/-- The token is this name. -/
def AsmToken.isName (t : AsmToken) (name : String) : Bool := t == .name name.toList

/-- String literals separated by commas, one or more. -/
def asmStrings? : List AsmToken → Option (List CharString)
  | [.str s] => some [s]
  | .str s :: .punct ',' :: rest => (asmStrings? rest).map fun ss => s :: ss
  | _ => none

/-- String literals separated by commas, zero or more (30_encoding.md R57). -/
def asmStringList? : List AsmToken → Option (List CharString)
  | [] => some []
  | ts => asmStrings? ts

/-- A number of 0 to 255. -/
def asmByte? (n : Nat) : Option Byte := if n ≤ 255 then some (BitVec.ofNat 8 n) else none

/-- The named bus bytes (30_encoding.md R59). -/
def asmBusBytes : List (String × Byte) :=
  [("clear", BusByte.clear), ("home", BusByte.home), ("entry_mode_rtl", BusByte.entryModeRtl),
   ("entry_mode_ltr", BusByte.entryModeLtr), ("display_on", BusByte.displayOn),
   ("display_on_cursor", BusByte.displayOnCursor), ("shift_cursor_left", BusByte.shiftCursorLeft),
   ("shift_cursor_right", BusByte.shiftCursorRight), ("shift_display_left", BusByte.shiftDisplayLeft),
   ("shift_display_right", BusByte.shiftDisplayRight)]

/-- The operand of `sendb`: a number or a named bus byte (30_encoding.md R57, R59). -/
def asmSendbOperand? : List AsmToken → Option Byte
  | [.num n] => asmByte? n
  | [.name cs] => (asmBusBytes.find? fun p => p.1.toList == cs).map Prod.snd
  | _ => none

/-- A two-valued operand: `no` or 0, `yes` or 1. -/
def asmFlag? (no yes : String) : List AsmToken → Option Bool
  | [.num 0] => some false
  | [.num 1] => some true
  | [t] => if t.isName no then some false else if t.isName yes then some true else none
  | _ => none

/-- `print` operands: `w=<n>` and strings, or strings alone with the default width 20 (30_encoding.md R57, R58). -/
def asmPrint? : List AsmToken → Option Instr
  | .name ['w'] :: .punct '=' :: .num n :: [] => (asmByte? n).map (.print [])
  | .name ['w'] :: .punct '=' :: .num n :: .punct ',' :: rest =>
    match asmByte? n, asmStrings? rest with
    | some w, some ss => some (.print ss w)
    | _, _ => none
  | ts => (asmStringList? ts).map fun ss => .print ss Config.defaultLineWidth

/-- The tokens between the outer parentheses of an alias written as a call, `(...)`. -/
def asmCallArgs? : List AsmToken → Option (List AsmToken)
  | .punct '(' :: rest => if rest.getLast? = some (.punct ')') then some rest.dropLast else none
  | _ => none

/-- `[...]` and what follows it. -/
def asmBracket? : List AsmToken → Option (List CharString × List AsmToken)
  | .punct '[' :: rest =>
    match rest.dropWhile (· != .punct ']') with
    | .punct ']' :: after => (asmStringList? (rest.takeWhile (· != .punct ']'))).map fun ss => (ss, after)
    | _ => none
  | _ => none

/-- `true` or `false`. -/
def asmBool? : List AsmToken → Option Bool
  | [t] => if t.isName "true" then some true else if t.isName "false" then some false else none
  | _ => none

/-- `send_character_stream([...])` (30_encoding.md R58). -/
def asmStreamCall? (args : List AsmToken) : Option Instr :=
  match asmBracket? args with
  | some (ss, []) => some (.stream ss)
  | _ => none

/-- `print_lines([...], w)`, or with the default width (30_encoding.md R58). -/
def asmPrintCall? (args : List AsmToken) : Option Instr :=
  match asmBracket? args with
  | some (ss, []) => some (.print ss Config.defaultLineWidth)
  | some (ss, [.punct ',', .num n]) => (asmByte? n).map (.print ss)
  | _ => none

/-- The commands without operands under each of their names (30_encoding.md R57, R58). -/
def asmPlain : List (String × Instr) :=
  [("alloff", .alloff), ("all_off", .alloff), ("clear", .clear), ("home", .home), ("curl", .curl), ("cursor_left", .curl),
   ("curr", .curr), ("cursor_right", .curr), ("shl", .shl), ("shift_left", .shl), ("shr", .shr), ("shift_right", .shr)]

/-- A line that starts with the name `t` and goes on with the tokens `args`. -/
def asmCommand? (t : AsmToken) (args : List AsmToken) : Option Instr :=
  match asmPlain.find? fun p => t.isName p.1 with
  | some (_, i) => if args = [] then some i else none
  | none =>
    if t.isName "init" then (asmFlag? "nocursor" "cursor" args).map .init
    else if t.isName "dir" then (asmFlag? "ltr" "rtl" args).map .dir
    else if t.isName "sendb" then (asmSendbOperand? args).map .sendb
    else if t.isName "stream" then (asmStringList? args).map .stream
    else if t.isName "print" then asmPrint? args
    else
      match asmCallArgs? args with
      | none => none
      | some inner =>
        if t.isName "initialize" then (asmBool? inner).map .init
        else if t.isName "set_text_direction" then (asmBool? inner).map .dir
        else if t.isName "send_byte" then (asmSendbOperand? inner).map .sendb
        else if t.isName "send_character_stream" then asmStreamCall? inner
        else if t.isName "print_lines" then asmPrintCall? inner
        else none

/-- One line of assembler text: `none` where it is not the syntax, `some none` where it has no command. -/
def assembleLine? (line : List Char) : Option (Option Instr) :=
  match lexLine? .base line with
  | none => none
  | some [] => some none
  | some (t :: args) => (asmCommand? t args).map some

/-- The packet of one line of assembler text that has a command (30_encoding.md R57). -/
def assemblePacket? (line : List Char) : Option Packet :=
  match assembleLine? line with
  | some (some i) => some (encode i)
  | _ => none

end Sys2Proof.Machine
end

