-- ==== Sys2Proof/Machine/Ports.lean ====
section
/-! DEFINITION. The output signals of the block, functions of its state (60_exceptions.md R91, R92). -/

namespace Sys2Proof.Machine

/-- The write that is outstanding, if one is: the sequencer runs and `EV[UPC]` is a write (60_exceptions.md R91). -/
def outstanding (s : State) : Option (Pin × Level) :=
  match s.seq, s.ev[s.upc]? with
  | .run, some (.write p v) => some (p, v)
  | _, _ => none

/-- `pin_req`: high while a write is outstanding (60_exceptions.md R91). -/
def pinReq (s : State) : Level := (outstanding s).isSome

/-- `pin_sel`: the pin index of the outstanding write (60_exceptions.md R91). -/
def pinSel? (s : State) : Option (BitVec 4) := (outstanding s).map fun w => w.1.index

/-- `pin_lvl`: the level of the outstanding write (60_exceptions.md R91). -/
def pinLvl? (s : State) : Option Level := (outstanding s).map Prod.snd

/-- `w` is a value `pin_out[10:0]` can have: each bit whose latch holds a level has that level; a bit whose latch is `U` has
no specified level (60_exceptions.md R91). -/
def pinOutAllows (s : State) (w : BitVec 11) : Bool :=
  allPins.all fun p =>
    match s.pins.get p with
    | .level v => w.getLsbD p.index.toNat == v
    | .unknown => true

/-- `cmd_ready = not STATUS.BUSY` (60_exceptions.md R92). -/
def cmdReady (s : State) : Level := !s.status.busy

/-- `done = not STATUS.BUSY and STATUS.RES != NONE` (60_exceptions.md R92). -/
def done (s : State) : Level := !s.status.busy && s.status.res != .none

/-- `status[7:0]` (60_exceptions.md R92). -/
def statusPort (s : State) : BitVec 8 := s.status.word

end Sys2Proof.Machine
end

