-- ==== Sys2Proof/Safety.lean ====
section
/-! DEFINITION. The terms claims about the block are made in: runs of steps, the invariant, the end of a command by completion
and by abort, pulses on E, the conditions I1 to I13 of an illegal packet. -/

namespace Sys2Proof.Safety

open Sys2Proof.Machine

/-! ### Runs -/

/-- `n` steps, as long as each answers a next state. -/
def runSteps : Nat → State → Host.Outcome State Fault Refusal
  | 0, s => .next s
  | n + 1, s =>
    match step s with
    | .next t => runSteps n t
    | .fault r => .fault r
    | .refused r => .refused r

/-- `rst` is low at every coming step. -/
def RstLow (s : State) : Prop := ∀ v ∈ s.rst, v = false

/-! ### The invariant -/

/-- What holds of the block between steps, whatever the host and the pin port do. -/
structure Inv (s : State) : Prop where
  /-- BUSY is 1 exactly while SEQ is not IDLE (10_state.md R18). -/
  busy_iff : s.status.busy = true ↔ s.seq ≠ .idle
  /-- While a command is in progress RES is NONE (10_state.md R18). -/
  res_busy : s.seq ≠ .idle → s.status.res = .none
  /-- ERRPIN is 0 unless RES is PIN_ERROR (10_state.md R18). -/
  errPin_zero : s.status.res ≠ .pinError → s.status.errPin = 0#4
  /-- ERRPIN is a pin index, 0 to 10 (10_state.md R18). -/
  errPin_le : s.status.errPin.toNat ≤ 10
  /-- TMR is 0 whenever SEQ is not SLEEP (10_state.md R14). -/
  tmr_zero : s.seq ≠ .sleep → s.tmr = 0
  /-- TMR is at most SETTLE_TICKS (10_state.md, overview). -/
  tmr_le : s.tmr ≤ settleTicks s
  /-- In IDLE, EV is empty and UPC 0 (10_state.md R16). -/
  idle_empty : s.seq = .idle → s.ev = [] ∧ s.upc = 0
  /-- Otherwise EV is the event list of a command (10_state.md R16). -/
  ev_events : s.seq ≠ .idle → ∃ i : Instr, s.ev = events i
  /-- UPC is at most len(EV) (10_state.md R16). -/
  upc_le : s.upc ≤ s.ev.length
  /-- In SLEEP the event in progress is a sleep (10_state.md R17). -/
  sleep_event : s.seq = .sleep → s.ev[s.upc]? = some .sleep
  /-- RW holds 0 or U, never 1 (10_state.md R12). -/
  rw_not_high : s.pins.rw ≠ .level true

/-! ### What an event list does -/

/-- Number of pin writes (70_reset_and_hazards.md R111). -/
def writeCount : List Event → Nat
  | [] => 0
  | .write _ _ :: es => writeCount es + 1
  | .sleep :: es => writeCount es

/-- Number of sleeps (70_reset_and_hazards.md R111). -/
def sleepCount : List Event → Nat
  | [] => 0
  | .write _ _ :: es => sleepCount es
  | .sleep :: es => sleepCount es + 1

/-- The least time an event list can take, in microseconds, counting only sleeps (70_reset_and_hazards.md R111). -/
def leastDuration (settleUs : Nat) (es : List Event) : Nat := sleepCount es * settleUs

/-- The latches after the events of a list have completed, every write answered `ok` (20_memory.md R26). -/
def latchesAfter (pins : Pins) : List Event → Pins
  | [] => pins
  | .write p v :: es => latchesAfter (pins.set p (.level v)) es
  | .sleep :: es => latchesAfter pins es

/-- The record of an event list, every write answered `ok` (00_scope.md R6). -/
def okTrace : List Event → List TraceEvent
  | [] => []
  | .write p v :: es => .write p v .ok :: okTrace es
  | .sleep :: es => .sleep :: okTrace es

/-- The steps an event list takes when every write is answered at once: one a write, and for a sleep one that loads TMR and
SETTLE_TICKS + 1 ticks (60_exceptions.md R89). -/
def stepCount (ticks : Nat) : List Event → Nat
  | [] => 0
  | .write _ _ :: es => stepCount ticks es + 1
  | .sleep :: es => stepCount ticks es + (ticks + 2)

/-- `n` answers `ok`, each at the first step of its write. -/
def answersOk (n : Nat) : List (Option PinAnswer) := List.replicate n (some .ok)

/-! ### How a command begins and ends -/

/-- An idle block `s` after a command with event list `es` was accepted: only EV, UPC, SEQ and STATUS change
(10_state.md R19). -/
def accepted (s : State) (es : List Event) : State :=
  { s with ev := es, upc := 0, seq := .run, status := { busy := true, res := .none, errPin := 0#4 } }

/-- The idle block `s` after `n` steps in which a command with event list `es` completed and the pin port used up all
answers but `port`: the latches are those after `es`, STATUS is 0/OK/0, the observer has recorded the events and the
result. SEQ, EV, UPC and TMR are those of an idle block again, and nothing else has changed (10_state.md R17, R19). -/
def completed (s : State) (n : Nat) (es : List Event) (port : List (Option PinAnswer)) : State :=
  { s with
    pins := latchesAfter s.pins es
    status := { busy := false, res := .ok, errPin := 0#4 }
    rst := s.rst.drop n
    pinPort := port
    trace := s.trace ++ okTrace es
    results := s.results ++ [(.ok, 0#4)] }

/-- The idle block `s` after `n` steps in which a command completed the events `done` and its next event `W(p, v)` was
answered `err`: latch `p` is U, the latches of `done` are kept, STATUS is 0/PIN_ERROR/p, nothing after the failed write is
in the record (60_exceptions.md R79, R81). -/
def aborted (s : State) (n : Nat) (done : List Event) (p : Pin) (v : Level) (port : List (Option PinAnswer)) : State :=
  { s with
    pins := (latchesAfter s.pins done).set p .unknown
    status := { busy := false, res := .pinError, errPin := p.index }
    rst := s.rst.drop n
    pinPort := port
    trace := s.trace ++ okTrace done ++ [.write p v .err]
    results := s.results ++ [(.pinError, p.index)] }

/-- The whole contract of one command `i` with packet `P`, event list `es` and end state `ends` of the latches:
`P` is its encoding and decodes to it; submitted to any idle block it is accepted with the event list `es`; if every write
is answered `ok` the command completes with the latches at `ends`; if a write of `es` is answered `err` the command ends
there, with the events before it completed and no later one issued. -/
structure CommandContract (i : Instr) (P : Packet) (es : List Event) (ends : Pins → Pins) : Prop where
  encodes : encode i = P
  decodes : decode none P = .ok i
  accepts : ∀ s : State, s.seq = .idle → exec i s = .next (accepted s es)
  end_state : ∀ pins : Pins, latchesAfter pins es = ends pins
  completes : ∀ (s : State) (port : List (Option PinAnswer)), Inv s → s.seq = .idle → RstLow s →
    s.pinPort = answersOk (writeCount es) ++ port →
    ∃ t : State, exec i s = .next t ∧
      runSteps (stepCount (settleTicks s) es + 1) t =
        .next (completed s (stepCount (settleTicks s) es + 1) es port)
  aborts : ∀ (s : State) (before after : List Event) (p : Pin) (v : Level) (port : List (Option PinAnswer)),
    Inv s → s.seq = .idle → RstLow s → es = before ++ .write p v :: after →
    s.pinPort = answersOk (writeCount before) ++ some .err :: port →
    ∃ t : State, exec i s = .next t ∧
      runSteps (stepCount (settleTicks s) before + 1) t =
        .next (aborted s (stepCount (settleTicks s) before + 1) before p v port)

/-! ### Pulses on E -/

/-- For every fall of E after a rise in the list: DB and RS at that moment (30_encoding.md R41, R42). `raised` says whether E has
been raised and not yet lowered. -/
def pulsesFrom (raised : Bool) (pins : Pins) : List Event → List (Option Byte × Latch)
  | [] => []
  | .sleep :: es => pulsesFrom raised pins es
  | .write .e true :: es => pulsesFrom true (pins.set .e (.level true)) es
  | .write .e false :: es =>
    if raised then (pins.db?, pins.rs) :: pulsesFrom false (pins.set .e (.level false)) es
    else pulsesFrom false (pins.set .e (.level false)) es
  | .write p v :: es => pulsesFrom raised (pins.set p (.level v)) es

/-- The E pulses of an event list that starts with the latches `pins`. -/
def pulses (pins : Pins) (es : List Event) : List (Option Byte × Latch) := pulsesFrom false pins es

/-- All three control lines low and the byte `b` on the data lines. -/
def controlLowWith (b : Byte) : Pins :=
  Pins.withDb { Pins.unknown with rs := .level false, rw := .level false, e := .level false } b

/-! ### Illegal packets (30_encoding.md R53) -/

/-- I3: `OP` is 0xC, 0xD, 0xE or 0xF. -/
def ReservedOp (cw : Word) : Prop :=
  cw.opField = 0xC#4 ∨ cw.opField = 0xD#4 ∨ cw.opField = 0xE#4 ∨ cw.opField = 0xF#4

/-- I5: `F = 1` and `OP` is neither INIT nor DIR. -/
def FlagNotAllowed (cw : Word) : Prop := cw.fField = true ∧ ¬ (cw.opField = 0x1#4 ∨ cw.opField = 0x4#4)

/-- I6: `IMM` is not 0 and `OP` is neither SENDB nor PRINT. -/
def ImmNotAllowed (cw : Word) : Prop := cw.immField ≠ 0#8 ∧ ¬ (cw.opField = 0x9#4 ∨ cw.opField = 0xB#4)

/-- `OP` is STREAM or PRINT. -/
def StringOp (cw : Word) : Prop := cw.opField = 0xA#4 ∨ cw.opField = 0xB#4

/-- I8 to I13, the conditions on the words after the command word of STREAM and PRINT. -/
def IllegalPayload (ts : List Word) : Prop :=
  (∀ t ∈ ts, t.kField ≠ 0b10#2) ∨
  (∃ t ∈ ts, t.kField = 0b11#2) ∨
  (∃ t ∈ ts, t.kField = 0b00#2 ∧ 255 < t.codeField.toNat) ∨
  (∃ t ∈ ts, (t.kField = 0b01#2 ∨ t.kField = 0b10#2) ∧ t.codeField ≠ 0#14) ∨
  (∃ (before after : List Word) (c t : Word),
    ts = before ++ c :: t :: after ∧ c.kField = 0b00#2 ∧ t.kField = 0b10#2) ∨
  (∃ (before after : List Word) (t : Word), ts = before ++ t :: after ∧ t.kField = 0b10#2 ∧ after ≠ [])

/-- A packet is illegal: one of I1 to I13 holds (30_encoding.md R53). -/
def IllegalPacket (pktMax : Option Nat) (P : Packet) : Prop :=
  P = [] ∨
  (∃ m, pktMax = some m ∧ m < P.length) ∨
  ∃ (cw : Word) (ts : List Word), P = cw :: ts ∧
    (ReservedOp cw ∨ cw.zField ≠ 0#3 ∨ FlagNotAllowed cw ∨ ImmNotAllowed cw ∨
      (¬ StringOp cw ∧ ts ≠ []) ∨ (StringOp cw ∧ IllegalPayload ts))

end Sys2Proof.Safety
end

