-- ==== Sys2Proof/Certificates/Slice0/Obligations.lean ====
section
/-! DEFINITION. The statements for the provers, one `def Obligations.<Name> : Prop` each; the rule of spec/ each one rests on
is in its docstring and in OBLIGATIONS.json. In every statement `trace` and `results` are the observer's record (log 7) and
`rst`, `cmdPort` and `pinPort` are the inputs, used up step by step (log 5, log 4, log 3): what a statement says of these five
fields is the model's form of the rule, not a further rule. -/

open Sys2Proof Sys2Proof.Machine Sys2Proof.Safety

/-! ### Reset and the invariant -/

/-- 10_state.md R23: the state after reset is as in its table. -/
def Obligations.ResetStateIsTheTable : Prop :=
  (∀ p : Pin, State.reset.pins.get p = .unknown) ∧ State.reset.settle = 2160 ∧ State.reset.tmr = 0 ∧
    State.reset.seq = .idle ∧ State.reset.ev = [] ∧ State.reset.upc = 0 ∧
    State.reset.status = { busy := false, res := .none, errPin := 0#4 } ∧ State.reset.trace = []

/-- 70_reset_and_hazards.md R95 to R97: with `rst` high the step puts the block into its reset state whatever it was doing,
and issues no event. That the record is neither cleared nor extended is the model's reading (log 6). -/
def Obligations.ResetInputWinsAtAnyTime : Prop :=
  ∀ s : State, rstNow s = true →
    ∃ t : State, step s = .next t ∧ (∀ p : Pin, t.pins.get p = .unknown) ∧ t.seq = .idle ∧ t.ev = [] ∧ t.upc = 0 ∧
      t.tmr = 0 ∧ t.status = { busy := false, res := .none, errPin := 0#4 } ∧ t.settle = s.settle ∧
      t.params = s.params ∧ t.trace = s.trace ∧ t.rst = s.rst.tail

/-- The reset state meets the invariant. -/
def Obligations.ResetStateMeetsInv : Prop := Inv State.reset

/-- Every step keeps the invariant: BUSY is 1 exactly outside IDLE, TMR is 0 outside SLEEP, UPC is within EV, EV is the event
list of a command, RW is never 1, ERRPIN is 0 unless RES is PIN_ERROR. -/
def Obligations.StepKeepsInv : Prop := ∀ s t : State, Inv s → step s = .next t → Inv t

/-- In the invariant a step always answers a next state: no fault and no refusal. -/
def Obligations.StepAlwaysAnswersNext : Prop := ∀ s : State, Inv s → ∃ t : State, step s = .next t

/-- 10_state.md R12: RW is never driven high, is written only by the `W(RW,0)` inside ALLOFF, is U after reset, and holds
only 0 or U. -/
def Obligations.RwIsNeverDrivenHigh : Prop :=
  (∀ (i : Instr) (v : Level), Event.write .rw v ∈ events i →
    v = false ∧ ∃ tail : List Event, events i = events .alloff ++ tail ∧ ∀ w : Level, Event.write .rw w ∉ tail) ∧
  State.reset.pins.rw = .unknown ∧
  (∀ s : State, Inv s → s.pins.rw = .level false ∨ s.pins.rw = .unknown) ∧
  (∀ s t : State, Inv s → step s = .next t → t.pins.rw = .level false ∨ t.pins.rw = .unknown)

/-! ### The step -/

/-- 10_state.md R19, 20_memory.md R39: an idle block takes the packet the host presents, and when it decodes to a command the
step is that command's meaning in the state with the packet taken and the `rst` level of the step used up. -/
def Obligations.StepRunsDecodedCommand : Prop :=
  ∀ (s : State) (P : Packet) (port : List (Option Packet)) (i : Instr),
    rstNow s = false → s.seq = .idle → s.cmdPort = some P :: port → decode s.params.pktMax P = .ok i →
    step s = exec i { s with rst := s.rst.tail, cmdPort := port }

/-- The packet of a well-formed command, presented to an idle block, runs that command and no other. -/
def Obligations.StepRunsEncodedCommand : Prop :=
  ∀ (s : State) (port : List (Option Packet)) (i : Instr),
    rstNow s = false → s.seq = .idle → i.wellFormed s.params.pktMax = true → s.cmdPort = some (encode i) :: port →
    step s = exec i { s with rst := s.rst.tail, cmdPort := port } ∧
      step s = .next (accepted { s with rst := s.rst.tail, cmdPort := port } (events i))

/-- How the model places an instruction for the next step (log 10, log 13; no rule of the spec): the step after
`withFetchWord` is the meaning of the decoded instruction in an idle state with the latches, parameters and record of `s`. -/
def Obligations.StepRunsPlacedInstruction : Prop :=
  ∀ (s : State) (nbits w : Nat) (i : Instr), s.params.pktMax = none → decodeTableWord nbits w = some i →
    ∃ u : State, step (s.withFetchWord nbits w) = exec i u ∧ u.seq = .idle ∧ u.pins = s.pins ∧ u.params = s.params ∧
      u.cmdPort = s.cmdPort ∧ u.pinPort = s.pinPort ∧ u.trace = s.trace ∧ u.results = s.results

/-- 60_exceptions.md R80: an illegal packet is refused whole: RES is ILLEGAL, ERRPIN 0, BUSY and SEQ stay, no event is issued and
no latch changes. That the observer records the outcome in `results` is the model's (log 7). -/
def Obligations.IllegalPacketChangesOnlyStatus : Prop :=
  ∀ (s : State) (P : Packet) (port : List (Option Packet)) (e : Illegal),
    rstNow s = false → s.seq = .idle → s.cmdPort = some P :: port → decode s.params.pktMax P = .error e →
    step s = .next { s with
      rst := s.rst.tail
      cmdPort := port
      status := { busy := s.status.busy, res := .illegal, errPin := 0#4 }
      results := s.results ++ [(.illegal, 0#4)] }

/-- 20_memory.md R39: while a command is in progress the port does not accept; what the host presents stays presented and
`cmd_ready` is low. -/
def Obligations.BusyBlockHoldsPacketOff : Prop :=
  ∀ s t : State, Inv s → s.seq ≠ .idle → step s = .next t → t.cmdPort = s.cmdPort ∧ cmdReady s = false

/-- A command's meaning applied to a busy block changes nothing (20_memory.md R39; the form is the model's choice, log 9). -/
def Obligations.BusyBlockAcceptsNoCommand : Prop :=
  ∀ (i : Instr) (s : State), s.seq ≠ .idle → exec i s = .next s

/-- 10_state.md R17, R86 of 60_exceptions.md: an idle block with nothing presented takes no step of its own. -/
def Obligations.IdleBlockWaits : Prop :=
  ∀ s : State, rstNow s = false → s.seq = .idle →
    (s.cmdPort = [] → step s = .next { s with rst := s.rst.tail }) ∧
    (∀ port : List (Option Packet), s.cmdPort = none :: port →
      step s = .next { s with rst := s.rst.tail, cmdPort := port })

/-- 20_memory.md R26, 60_exceptions.md R84: a running block at `W(p, v)` waits as long as the pin port does not answer, and on `ok`
sets latch `p` to `v`, advances UPC by 1 and changes no other state of the block. -/
def Obligations.PinWriteWaitsOrSetsOneLatch : Prop :=
  ∀ (s : State) (p : Pin) (v : Level), rstNow s = false → s.seq = .run → s.ev[s.upc]? = some (.write p v) →
    (s.pinPort = [] → step s = .next { s with rst := s.rst.tail }) ∧
    (∀ port : List (Option PinAnswer), s.pinPort = none :: port →
      step s = .next { s with rst := s.rst.tail, pinPort := port }) ∧
    (∀ port : List (Option PinAnswer), s.pinPort = some .ok :: port →
      step s = .next { s with
        rst := s.rst.tail
        pinPort := port
        pins := s.pins.set p (.level v)
        upc := s.upc + 1
        trace := s.trace ++ [.write p v .ok] })

/-- 60_exceptions.md R79: a write answered `err` makes latch `p` U and ends the command: RES PIN_ERROR, ERRPIN p, BUSY 0, SEQ IDLE,
EV empty, UPC 0, TMR 0; every other latch keeps its value. -/
def Obligations.PinErrorEndsTheCommand : Prop :=
  ∀ (s : State) (p : Pin) (v : Level) (port : List (Option PinAnswer)),
    rstNow s = false → s.seq = .run → s.ev[s.upc]? = some (.write p v) → s.pinPort = some .err :: port →
    (∃ t : State, step s = .next t ∧ t = { s with
      rst := s.rst.tail
      pinPort := port
      pins := s.pins.set p .unknown
      status := { busy := false, res := .pinError, errPin := p.index }
      seq := .idle
      ev := []
      upc := 0
      tmr := 0
      trace := s.trace ++ [.write p v .err]
      results := s.results ++ [(.pinError, p.index)] }) ∧
    ∀ q : Pin, q ≠ p → (s.pins.set p .unknown).get q = s.pins.get q

/-- 10_state.md R17: at the end of the event list the command has completed: SEQ IDLE, BUSY 0, RES OK, EV empty, UPC 0. -/
def Obligations.EndOfEventListCompletes : Prop :=
  ∀ s : State, Inv s → rstNow s = false → s.seq = .run → s.upc = s.ev.length →
    step s = .next { s with
      rst := s.rst.tail
      seq := .idle
      ev := []
      upc := 0
      status := { busy := false, res := .ok, errPin := 0#4 }
      results := s.results ++ [(.ok, 0#4)] }

/-- 10_state.md R19: the points at which STATUS changes, its value after each, and that it changes nowhere else. -/
def Obligations.StatusChangesExactlyThere : Prop :=
  ∀ s t : State, step s = .next t →
    (rstNow s = true → t.status = { busy := false, res := .none, errPin := 0#4 }) ∧
    (rstNow s = false → s.seq = .idle → ∀ (P : Packet) (port : List (Option Packet)), s.cmdPort = some P :: port →
      (∀ e : Illegal, decode s.params.pktMax P = .error e →
        t.status = { busy := s.status.busy, res := .illegal, errPin := 0#4 } ∧ t.seq = .idle ∧ t.ev = s.ev ∧
          t.trace = s.trace) ∧
      (∀ i : Instr, decode s.params.pktMax P = .ok i →
        t.status = { busy := true, res := .none, errPin := 0#4 } ∧ t.seq = .run ∧ t.ev = events i ∧ t.upc = 0)) ∧
    (rstNow s = false → s.seq = .run → s.upc = s.ev.length →
      t.status = { busy := false, res := .ok, errPin := s.status.errPin }) ∧
    (rstNow s = false → s.seq = .run → ∀ (p : Pin) (v : Level) (port : List (Option PinAnswer)),
      s.ev[s.upc]? = some (.write p v) → s.pinPort = some .err :: port →
      t.status = { busy := false, res := .pinError, errPin := p.index }) ∧
    (rstNow s = false →
      ¬ (s.seq = .idle ∧ ∃ (P : Packet) (port : List (Option Packet)), s.cmdPort = some P :: port) →
      ¬ (s.seq = .run ∧ s.upc = s.ev.length) →
      ¬ (s.seq = .run ∧ ∃ (p : Pin) (v : Level) (port : List (Option PinAnswer)),
          s.ev[s.upc]? = some (.write p v) ∧ s.pinPort = some .err :: port) →
      t.status = s.status)

/-- 10_state.md R21, R22: a latch changes only by a reset or by a write to that latch that is in progress, to the level written
or to U. -/
def Obligations.LatchChangesOnlyByItsWrite : Prop :=
  ∀ (s t : State) (p : Pin), step s = .next t → rstNow s = false → t.pins.get p ≠ s.pins.get p →
    s.seq = .run ∧ ∃ (v : Level) (a : PinAnswer) (port : List (Option PinAnswer)),
      s.ev[s.upc]? = some (.write p v) ∧ s.pinPort = some a :: port ∧
      ((a = .ok ∧ t.pins.get p = .level v) ∨ (a = .err ∧ t.pins.get p = .unknown))

/-- 10_state.md R13: no step changes SETTLE; the parameters of the instance are constant too (00_scope.md R5). -/
def Obligations.SettleIsReadOnly : Prop :=
  ∀ s t : State, step s = .next t → t.settle = s.settle ∧ t.params = s.params

/-- 00_scope.md R6, 20_memory.md R36: a step records nothing, or exactly the event `EV[UPC]` of the running command, a write with
the answer the pin port gave. -/
def Obligations.TraceRecordsOnlyIssuedEvents : Prop :=
  ∀ s t : State, step s = .next t → t.trace ≠ s.trace →
    rstNow s = false ∧ s.seq = .run ∧
    ((∃ (p : Pin) (v : Level) (a : PinAnswer) (port : List (Option PinAnswer)),
        s.ev[s.upc]? = some (.write p v) ∧ s.pinPort = some a :: port ∧
        t.trace = s.trace ++ [.write p v a] ∧ t.pinPort = port) ∨
      (s.ev[s.upc]? = some .sleep ∧ t.trace = s.trace ++ [.sleep] ∧ t.pinPort = s.pinPort))

/-- 10_state.md R16, 44_arithmetic_control.md R114: while a command goes on, EV stays and UPC stays or advances by exactly 1. -/
def Obligations.UpcAdvancesByOne : Prop :=
  ∀ s t : State, s.seq ≠ .idle → t.seq ≠ .idle → step s = .next t →
    t.ev = s.ev ∧ (t.upc = s.upc ∨ t.upc = s.upc + 1)

/-- 60_exceptions.md R86, 70_reset_and_hazards.md R112: a command in progress ends only by a reset, by the completion of its last
event, or by a write answered `err`. -/
def Obligations.CommandEndsOnlyInThreeWays : Prop :=
  ∀ s t : State, s.seq ≠ .idle → t.seq = .idle → step s = .next t →
    rstNow s = true ∨ (s.seq = .run ∧ s.upc = s.ev.length) ∨
      (s.seq = .run ∧ ∃ (p : Pin) (v : Level) (port : List (Option PinAnswer)),
        s.ev[s.upc]? = some (.write p v) ∧ s.pinPort = some .err :: port)

/-! ### The settle timer -/

/-- 60_exceptions.md R88, R89: a sleep loads TMR with SETTLE_TICKS, lasts SETTLE_TICKS + 1 ticks, is recorded once, and changes no
latch and no STATUS field; during it TMR counts down by one a tick. -/
def Obligations.SleepLastsSettleTicks : Prop :=
  ∀ s : State, RstLow s → s.seq = .run → s.ev[s.upc]? = some .sleep →
    (∀ k : Nat, k ≤ settleTicks s →
      runSteps (k + 1) s = .next { s with
        rst := s.rst.drop (k + 1)
        seq := .sleep
        tmr := settleTicks s - k
        trace := s.trace ++ [.sleep] }) ∧
    runSteps (settleTicks s + 2) s = .next { s with
      rst := s.rst.drop (settleTicks s + 2)
      tmr := 0
      upc := s.upc + 1
      trace := s.trace ++ [.sleep] }

/-- 60_exceptions.md R89: SETTLE_TICKS is SETTLE_US divided by T_TICK, rounded up, so SETTLE_TICKS * T_TICK is at least SETTLE_US and
less than one period above it. -/
def Obligations.SettleTicksCoverSettle : Prop :=
  ∀ (s : State) (p : Period), s.params.tTick = some p → 0 < p.num →
    s.settle * 1000 * p.den ≤ settleTicks s * p.num ∧ settleTicks s * p.num < s.settle * 1000 * p.den + p.num

/-! ### Every command -/

/-- 10_state.md R17, 60_exceptions.md R81, 70_reset_and_hazards.md R112: every command, from its packet to its end. Its packet decodes
to it; an idle block accepts it with its event list; answered `ok` throughout it completes with exactly its events in the
record; answered `err` at any of its writes it ends there, precisely. -/
def Obligations.EveryCommandKeepsItsContract : Prop :=
  ∀ i : Instr, CommandContract i (encode i) (events i) fun pins => latchesAfter pins (events i)

/-- 70_reset_and_hazards.md R110, R112: how long the pin port takes over each answer changes nothing but the number of steps. -/
def Obligations.AnswerDelaysDoNotChangeOutcome : Prop :=
  ∀ (i : Instr) (s : State) (delayed port : List (Option PinAnswer)), Inv s → s.seq = .idle → RstLow s →
    s.pinPort = delayed ++ port → delayed.filterMap id = List.replicate (writeCount (events i)) .ok →
    delayed.getLast? ≠ some none →
    ∃ (n : Nat) (t : State), exec i s = .next t ∧ runSteps n t = .next (completed s n (events i) port)

/-- 40_primitives.md R61. -/
def Obligations.SendbPutsByteOnBus : Prop :=
  ∀ v : Byte,
    CommandContract (.sendb v) [0x9000#16 + v.zeroExtend 16]
      [.write .d0 (v.getLsbD 0), .write .d1 (v.getLsbD 1), .write .d2 (v.getLsbD 2), .write .d3 (v.getLsbD 3),
       .write .d4 (v.getLsbD 4), .write .d5 (v.getLsbD 5), .write .d6 (v.getLsbD 6), .write .d7 (v.getLsbD 7)]
      (fun pins => pins.withDb v) ∧
    ∀ pins : Pins, (pins.withDb v).db? = some v

/-- 40_primitives.md R62. -/
def Obligations.AlloffLowersAllPins : Prop :=
  CommandContract .alloff [0x0000#16]
    [.write .rs false, .write .rw false, .write .e false, .write .d0 false, .write .d1 false, .write .d2 false,
     .write .d3 false, .write .d4 false, .write .d5 false, .write .d6 false, .write .d7 false]
    (fun _ => ⟨.level false, .level false, .level false, .level false, .level false, .level false, .level false,
      .level false, .level false, .level false, .level false⟩)

/-- 41_display_commands.md R63. -/
def Obligations.InitPresentsDisplayOn : Prop :=
  CommandContract (.init false) [0x1000#16]
    (events .alloff ++ [.write .e true, .write .d2 true, .write .d3 true, .write .e false])
    (fun _ => controlLowWith 0x0C#8) ∧
  CommandContract (.init true) [0x1100#16]
    (events .alloff ++ [.write .e true, .write .d0 true, .write .d1 true, .write .d2 true, .write .d3 true, .write .e false])
    (fun _ => controlLowWith 0x0F#8)

/-- 41_display_commands.md R64: no sleep. -/
def Obligations.ClearPresentsOneWithoutSleep : Prop :=
  CommandContract .clear [0x2000#16]
    (events .alloff ++ [.write .e true, .write .d0 true, .write .e false])
    (fun _ => controlLowWith 0x01#8) ∧
  sleepCount (events .clear) = 0

/-- 41_display_commands.md R65. -/
def Obligations.HomePresentsTwo : Prop :=
  CommandContract .home [0x3000#16]
    [.write .e true, .write .d0 false, .write .d1 true, .write .d2 false, .write .d3 false, .write .d4 false,
     .write .d5 false, .write .d6 false, .write .d7 false, .write .e false]
    (fun pins => { pins.withDb 0x02#8 with e := .level false })

/-- 41_display_commands.md R66. -/
def Obligations.DirPresentsEntryMode : Prop :=
  CommandContract (.dir true) [0x4100#16]
    [.write .e true, .write .d0 false, .write .d1 false, .write .d2 true, .write .d3 false, .write .d4 false,
     .write .d5 false, .write .d6 false, .write .d7 false, .write .e false]
    (fun pins => { pins.withDb 0x04#8 with e := .level false }) ∧
  CommandContract (.dir false) [0x4000#16]
    [.write .e true, .write .d0 false, .write .d1 true, .write .d2 true, .write .d3 false, .write .d4 false,
     .write .d5 false, .write .d6 false, .write .d7 false, .write .e false]
    (fun pins => { pins.withDb 0x06#8 with e := .level false })

/-- 42_shift_commands.md R68: the byte first, one sleep while E is high. -/
def Obligations.CurlSendsByteFirstAndSleeps : Prop :=
  CommandContract .curl [0x5000#16]
    [.write .d0 false, .write .d1 false, .write .d2 false, .write .d3 false, .write .d4 true, .write .d5 false,
     .write .d6 false, .write .d7 false, .write .e true, .sleep, .write .e false]
    (fun pins => { pins.withDb 0x10#8 with e := .level false })

/-- 42_shift_commands.md R69: E first, no sleep. -/
def Obligations.CurrRaisesEFirstWithoutSleep : Prop :=
  CommandContract .curr [0x6000#16]
    [.write .e true, .write .d0 false, .write .d1 false, .write .d2 true, .write .d3 false, .write .d4 true,
     .write .d5 false, .write .d6 false, .write .d7 false, .write .e false]
    (fun pins => { pins.withDb 0x14#8 with e := .level false })

/-- 42_shift_commands.md R70: the byte first, one sleep while E is high. -/
def Obligations.ShlSendsByteFirstAndSleeps : Prop :=
  CommandContract .shl [0x7000#16]
    [.write .d0 false, .write .d1 false, .write .d2 false, .write .d3 true, .write .d4 true, .write .d5 false,
     .write .d6 false, .write .d7 false, .write .e true, .sleep, .write .e false]
    (fun pins => { pins.withDb 0x18#8 with e := .level false })

/-- 42_shift_commands.md R71: E first, no sleep. -/
def Obligations.ShrRaisesEFirstWithoutSleep : Prop :=
  CommandContract .shr [0x8000#16]
    [.write .e true, .write .d0 false, .write .d1 false, .write .d2 true, .write .d3 true, .write .d4 true,
     .write .d5 false, .write .d6 false, .write .d7 false, .write .e false]
    (fun pins => { pins.withDb 0x1C#8 with e := .level false })

/-- 43_stream_commands.md R73, with the cell of R72: one `OFF`, RS raised once, a cell for every character of every string in
order, RS lowered; DB ends at the last character, or 0 if there is none. -/
def Obligations.StreamSendsEveryCharacter : Prop :=
  ∀ strings : List CharString,
    CommandContract (.stream strings) (0xA000#16 :: encodePayload strings)
      (events .alloff ++ [.write .rs true] ++
        strings.flatten.flatMap (fun c => [.write .e true] ++ events (.sendb c) ++ [.sleep, .write .e false]) ++
        [.write .rs false])
      (fun _ => controlLowWith (strings.flatten.getLast?.getD 0x00#8)) ∧
    writeCount (events (.stream strings)) = 13 + 10 * strings.flatten.length ∧
    sleepCount (events (.stream strings)) = strings.flatten.length

/-- 43_stream_commands.md R75, with the padding function of R74: every string padded on the right with spaces to the line width,
none cut, then exactly as STREAM. -/
def Obligations.PrintStreamsPaddedStrings : Prop :=
  ∀ (strings : List CharString) (w : Byte),
    CommandContract (.print strings w) ((0xB000#16 + w.zeroExtend 16) :: encodePayload strings)
      (events (.stream (strings.map fun s => s ++ List.replicate (w.toNat - s.length) 0x20#8)))
      (fun _ => controlLowWith ((strings.map (pad w)).flatten.getLast?.getD 0x00#8)) ∧
    sleepCount (events (.print strings w)) = (strings.map fun s => max s.length w.toNat).sum ∧
    writeCount (events (.print strings w)) = 13 + 10 * (strings.map fun s => max s.length w.toNat).sum

/-! ### Event lists -/

/-- 43_stream_commands.md R76 and the remark on string boundaries in R73. -/
def Obligations.StreamAndPrintCornerCases : Prop :=
  (∀ w : Byte, events (.stream []) = events .alloff ++ [.write .rs true, .write .rs false] ∧
    events (.print [] w) = events (.stream [])) ∧
  (∀ w : Byte, events (.stream [[]]) = events (.stream []) ∧
    events (.print [[]] w) = events (.stream [List.replicate w.toNat 0x20#8])) ∧
  (∀ strings : List CharString, events (.print strings 0#8) = events (.stream strings)) ∧
  (∀ (s : CharString) (w : Byte), w.toNat ≤ s.length → events (.print [s] w) = events (.stream [s])) ∧
  (∀ strings : List CharString, events (.stream strings) = events (.stream [strings.flatten]))

/-- 43_stream_commands.md R74, 44_arithmetic_control.md R113 (d): padding appends spaces up to the width and never cuts. -/
def Obligations.PadNeverCuts : Prop :=
  ∀ (w : Byte) (s : CharString),
    pad w s = s ++ List.replicate (padCount w s) 0x20#8 ∧ (pad w s).length = max s.length w.toNat ∧
      (w.toNat ≤ s.length → pad w s = s)

/-- 70_reset_and_hazards.md R111: pin writes, sleeps and least duration of every command. -/
def Obligations.EventCountsOfEveryCommand : Prop :=
  ∀ (settleUs : Nat) (f : Bool) (v w : Byte) (strings : List CharString),
    (writeCount (events (.sendb v)) = 8 ∧ leastDuration settleUs (events (.sendb v)) = 0) ∧
    (writeCount (events .alloff) = 11 ∧ leastDuration settleUs (events .alloff) = 0) ∧
    (writeCount (events (.init false)) = 15 ∧ leastDuration settleUs (events (.init false)) = 0) ∧
    (writeCount (events (.init true)) = 17 ∧ leastDuration settleUs (events (.init true)) = 0) ∧
    (writeCount (events .clear) = 14 ∧ leastDuration settleUs (events .clear) = 0) ∧
    (writeCount (events .home) = 10 ∧ leastDuration settleUs (events .home) = 0) ∧
    (writeCount (events (.dir f)) = 10 ∧ leastDuration settleUs (events (.dir f)) = 0) ∧
    (writeCount (events .curl) = 10 ∧ leastDuration settleUs (events .curl) = settleUs) ∧
    (writeCount (events .curr) = 10 ∧ leastDuration settleUs (events .curr) = 0) ∧
    (writeCount (events .shl) = 10 ∧ leastDuration settleUs (events .shl) = settleUs) ∧
    (writeCount (events .shr) = 10 ∧ leastDuration settleUs (events .shr) = 0) ∧
    (∀ n : Nat, n = (strings.map List.length).sum →
      writeCount (events (.stream strings)) = 13 + 10 * n ∧ sleepCount (events (.stream strings)) = n ∧
        leastDuration settleUs (events (.stream strings)) = n * settleUs) ∧
    (∀ n : Nat, n = (strings.map fun s => max s.length w.toNat).sum →
      writeCount (events (.print strings w)) = 13 + 10 * n ∧ sleepCount (events (.print strings w)) = n ∧
        leastDuration settleUs (events (.print strings w)) = n * settleUs)

/-- 30_encoding.md R41 (and the levels of RS in R42): the value of DB, and of RS, each time a command lowers E after raising it;
SENDB and ALLOFF raise no E and leave their byte on the bus. -/
def Obligations.BusByteAtEveryFallOfE : Prop :=
  ∀ (pins : Pins) (f : Bool) (v w : Byte) (strings : List CharString),
    pulses pins (events (.init f)) = [(some (if f then 0x0F#8 else 0x0C#8), .level false)] ∧
    pulses pins (events .clear) = [(some 0x01#8, .level false)] ∧
    pulses pins (events .home) = [(some 0x02#8, pins.rs)] ∧
    pulses pins (events (.dir f)) = [(some (if f then 0x04#8 else 0x06#8), pins.rs)] ∧
    pulses pins (events .curl) = [(some 0x10#8, pins.rs)] ∧
    pulses pins (events .curr) = [(some 0x14#8, pins.rs)] ∧
    pulses pins (events .shl) = [(some 0x18#8, pins.rs)] ∧
    pulses pins (events .shr) = [(some 0x1C#8, pins.rs)] ∧
    pulses pins (events (.stream strings)) = strings.flatten.map (fun c => (some c, .level true)) ∧
    pulses pins (events (.print strings w)) = (strings.map (pad w)).flatten.map (fun c => (some c, .level true)) ∧
    (pulses pins (events (.sendb v)) = [] ∧ (latchesAfter pins (events (.sendb v))).db? = some v) ∧
    (pulses pins (events .alloff) = [] ∧ (latchesAfter pins (events .alloff)).db? = some 0x00#8)

/-- 30_encoding.md R43, 42_shift_commands.md R67: wherever a command sleeps, E is high and the next event lowers it. -/
def Obligations.SleepStandsBeforeFallOfE : Prop :=
  ∀ (i : Instr) (before after : List Event) (pins : Pins), events i = before ++ .sleep :: after →
    (latchesAfter pins before).e = .level true ∧ after.head? = some (.write .e false)

/-- 10_state.md R24, 70_reset_and_hazards.md R103: HOME, DIR, CURL, CURR, SHL, SHR and SENDB write neither RS nor RW, and SENDB not E. -/
def Obligations.RsAndRwAreInherited : Prop :=
  ∀ (f : Bool) (v : Byte) (l : Level),
    (∀ i ∈ [Instr.sendb v, .home, .dir f, .curl, .curr, .shl, .shr],
      Event.write .rs l ∉ events i ∧ Event.write .rw l ∉ events i) ∧
    Event.write .e l ∉ events (.sendb v)

/-- 70_reset_and_hazards.md R99: after ALLOFF, INIT, CLEAR, STREAM or PRINT every latch is known whatever it was before, and RS, RW
and E are low. -/
def Obligations.AlloffCommandsMakePinsKnown : Prop :=
  ∀ (f : Bool) (strings : List CharString) (w : Byte),
    ∀ i ∈ [Instr.alloff, .init f, .clear, .stream strings, .print strings w],
      ∃ b : Byte, ∀ pins : Pins, latchesAfter pins (events i) = controlLowWith b

/-! ### Encodings -/

/-- 30_encoding.md R60: the encoding of every command, and that decoding and encoding are inverse to each other. -/
def Obligations.DecodeAndEncodeAgree : Prop :=
  (∀ (f : Bool) (v w : Byte) (strings : List CharString),
    encode .alloff = [0x0000#16] ∧ encode (.init f) = [0x1000#16 + if f then 0x100#16 else 0] ∧
    encode .clear = [0x2000#16] ∧ encode .home = [0x3000#16] ∧ encode (.dir f) = [0x4000#16 + if f then 0x100#16 else 0] ∧
    encode .curl = [0x5000#16] ∧ encode .curr = [0x6000#16] ∧ encode .shl = [0x7000#16] ∧ encode .shr = [0x8000#16] ∧
    encode (.sendb v) = [0x9000#16 + v.zeroExtend 16] ∧
    encode (.stream strings) =
      [0xA000#16] ++ strings.flatMap (fun s => s.map (fun c => c.zeroExtend 16) ++ [0x4000#16]) ++ [0x8000#16] ∧
    encode (.print strings w) = [0xB000#16 + w.zeroExtend 16] ++
      strings.flatMap (fun s => s.map (fun c => c.zeroExtend 16) ++ [0x4000#16]) ++ [0x8000#16]) ∧
  (∀ (pktMax : Option Nat) (i : Instr), i.wellFormed pktMax = true → decode pktMax (encode i) = .ok i) ∧
  (∀ (pktMax : Option Nat) (P : Packet) (i : Instr), decode pktMax P = .ok i → encode i = P)

/-- 30_encoding.md R53: a packet is illegal exactly when one of I1 to I13 holds, and an illegal packet is refused as a whole. -/
def Obligations.IllegalExactlyByTheConditions : Prop :=
  (∀ (pktMax : Option Nat) (P : Packet), (∃ e : Illegal, decode pktMax P = .error e) ↔ IllegalPacket pktMax P) ∧
  ∀ (s : State) (P : Packet) (port : List (Option Packet)), rstNow s = false → s.seq = .idle →
    s.cmdPort = some P :: port → IllegalPacket s.params.pktMax P →
    ∃ t : State, step s = .next t ∧ t.status.res = .illegal ∧ t.pins = s.pins ∧ t.trace = s.trace ∧ t.seq = .idle

/-- 30_encoding.md R55: the length of a packet can be told from its words: a legal packet is exactly what the scan finds at the
head of any stream of words that starts with it. -/
def Obligations.PacketLengthIsDecodable : Prop :=
  ∀ (pktMax : Option Nat) (P Q : Packet) (i : Instr), decode pktMax P = .ok i →
    packetExtent (P ++ Q) = some P.length ∧
    (∀ cw ∈ P.head?, ¬ StringOp cw → P.length = 1) ∧ (∀ t ∈ P.tail.dropLast, t.kField ≠ 0b10#2)

/-- 95_test_vectors.md 2.1 and 2.2: words written out from the spec. -/
def Obligations.WordsOfTheSpecDecode : Prop :=
  decode none [0x1100#16] = .ok (.init true) ∧ decode none [0x4100#16] = .ok (.dir true) ∧
    decode none [0x7000#16] = .ok .shl ∧ decode none [0x90A5#16] = .ok (.sendb 0xA5#8) ∧
    decode none [0xB014#16, 0x0048#16, 0x0069#16, 0x4000#16, 0x8000#16] = .ok (.print [[0x48#8, 0x69#8]] 20#8) ∧
    decode none [0xA000#16, 0x0041#16, 0x8000#16] = .error .endInsideString

/-! ### STATUS, ports, assembler -/

/-- 10_state.md R18: the bits of STATUS; BUSY is 1 exactly while SEQ is not IDLE. -/
def Obligations.StatusRegisterLayout : Prop :=
  (∀ st : Status, st.word.getLsbD 0 = st.busy ∧ st.word.extractLsb' 1 2 = st.res.code ∧
    st.word.extractLsb' 3 4 = st.errPin ∧ st.word.getLsbD 7 = false) ∧
  (Res.none.code = 0b00#2 ∧ Res.ok.code = 0b01#2 ∧ Res.pinError.code = 0b10#2 ∧ Res.illegal.code = 0b11#2) ∧
  ∀ s : State, Inv s →
    (s.status.word.getLsbD 0 = true ↔ s.seq ≠ .idle) ∧ (s.status.res ≠ .pinError → s.status.errPin = 0#4) ∧
      s.status.errPin.toNat ≤ 10

/-- 60_exceptions.md R91, R92: `cmd_ready` is high exactly in IDLE, `done` exactly when an outcome is in RES, and `pin_req`, `pin_sel` and
`pin_lvl` carry the write in progress. -/
def Obligations.PortsFollowTheState : Prop :=
  ∀ s : State, Inv s →
    (cmdReady s = true ↔ s.seq = .idle) ∧ (done s = true ↔ s.seq = .idle ∧ s.status.res ≠ .none) ∧
    (pinReq s = true ↔ s.seq = .run ∧ ∃ (p : Pin) (v : Level), s.ev[s.upc]? = some (.write p v)) ∧
    (∀ (p : Pin) (v : Level), s.seq = .run → s.ev[s.upc]? = some (.write p v) →
      pinSel? s = some p.index ∧ pinLvl? s = some v)

/-- 30_encoding.md R57, R58: lines of the assembler syntax and their packets; `print` with no width takes 20. -/
def Obligations.AssemblerLinesGivePackets : Prop :=
  assemblePacket? "init cursor ; display on".toList = some [0x1100#16] ∧
    assemblePacket? "DIR rtl".toList = some [0x4100#16] ∧
    assemblePacket? "sendb 0xA5".toList = some [0x90A5#16] ∧
    assemblePacket? "shift_right".toList = some [0x8000#16] ∧
    assemblePacket? "stream \"A\"".toList = some [0xA000#16, 0x0041#16, 0x4000#16, 0x8000#16] ∧
    assemblePacket? "print \"Hi\"".toList = some [0xB014#16, 0x0048#16, 0x0069#16, 0x4000#16, 0x8000#16] ∧
    assemblePacket? "print w=0, \"Hi\", \"\"".toList =
      some [0xB000#16, 0x0048#16, 0x0069#16, 0x4000#16, 0x4000#16, 0x8000#16] ∧
    assemblePacket? "goto 1,2".toList = none
end

