-- ==== Sys2Proof/Laws/Decode.lean ====
section
/-! SUPPORT. The fields of the words the encoder writes, and the words made of given fields. -/

namespace Sys2Proof.Laws

/-- The bits of a command word, field by field (30_encoding.md R45). -/
theorem commandWord_bit (op : BitVec 4) (f : Bool) (imm : Byte) (k : Nat) :
    (commandWord op f imm).getLsbD k =
      if k < 8 then imm.getLsbD k else if k = 8 then f else if k < 12 then false else op.getLsbD (k - 12) := by
  show ((op ++ 0#3 ++ BitVec.ofBool f ++ imm : BitVec (4 + 3 + 1 + 8))).getLsbD k = _
  simp only [BitVec.getLsbD_append]
  split
  · rfl
  · split
    · have : k = 8 := by omega
      subst this; simp
    · rename_i h1 h2
      have : k ≠ 8 := by omega
      simp only [this, if_false]
      split
      · have : k < 12 := by omega
        simp [this]
      · have : ¬ k < 12 := by omega
        simp only [this, if_false]
        congr 1

@[simp] theorem commandWord_opField (op : BitVec 4) (f : Bool) (imm : Byte) :
    (commandWord op f imm).opField = op := by
  apply BitVec.eq_of_getLsbD_eq
  intro k hk
  have h8 : ¬ 12 + k < 8 := by omega
  have h9 : 12 + k ≠ 8 := by omega
  simp [Word.opField, commandWord_bit, hk, h8, h9]

@[simp] theorem commandWord_zField (op : BitVec 4) (f : Bool) (imm : Byte) :
    (commandWord op f imm).zField = 0#3 := by
  apply BitVec.eq_of_getLsbD_eq
  intro k hk
  have h8 : ¬ 9 + k < 8 := by omega
  have h9 : 9 + k ≠ 8 := by omega
  have h12 : 9 + k < 12 := by omega
  simp [Word.zField, commandWord_bit, hk, h8, h9, h12]

@[simp] theorem commandWord_fField (op : BitVec 4) (f : Bool) (imm : Byte) :
    (commandWord op f imm).fField = f := by
  rw [Word.fField, commandWord_bit]
  rfl

@[simp] theorem commandWord_immField (op : BitVec 4) (f : Bool) (imm : Byte) :
    (commandWord op f imm).immField = imm := by
  apply BitVec.eq_of_getLsbD_eq
  intro k hk
  simp [Word.immField, commandWord_bit, hk]

/-- A command word is made of its four fields; with `Z = 0` it is the one the encoder writes. -/
theorem commandWord_fields {w : Word} (hz : w.zField = 0#3) :
    commandWord w.opField w.fField w.immField = w := by
  apply BitVec.eq_of_getLsbD_eq
  intro k hk
  have hz' : ∀ j, j < 3 → w.getLsbD (9 + j) = false := fun j hj => by
    have := congrArg (fun v => v.getLsbD j) hz
    simpa [Word.zField, hj] using this
  rw [commandWord_bit]
  split
  · rename_i h; simp [Word.immField, h]
  · split
    · rename_i h; subst h; rfl
    · split
      · have := hz' (k - 9) (by omega)
        rw [← this]; congr 1; omega
      · have h1 : k - 12 < 4 := by omega
        simp only [Word.opField, BitVec.getLsbD_extractLsb', h1, decide_true, Bool.true_and]
        congr 1; omega

@[simp] theorem charToken_kField (c : Byte) : (charToken c).kField = 0b00#2 := by revert c; decide

@[simp] theorem charToken_code_le (c : Byte) : ¬ 255 < (charToken c).codeField.toNat := by revert c; decide

@[simp] theorem charToken_code (c : Byte) : (charToken c).codeField.extractLsb' 0 8 = c := by revert c; decide

@[simp] theorem eosToken_kField : eosToken.kField = 0b01#2 := by decide

@[simp] theorem eosToken_codeField : eosToken.codeField = 0#14 := by decide

@[simp] theorem endToken_kField : endToken.kField = 0b10#2 := by decide

@[simp] theorem endToken_codeField : endToken.codeField = 0#14 := by decide

/-- A token is made of its two fields. -/
theorem token_ext {a b : Word} (hk : a.kField = b.kField) (hc : a.codeField = b.codeField) : a = b := by
  apply BitVec.eq_of_getLsbD_eq
  intro k hk'
  by_cases h : k < 14
  · have := congrArg (fun v => v.getLsbD k) hc
    simpa [Word.codeField, h] using this
  · have := congrArg (fun v => v.getLsbD (k - 14)) hk
    have h2 : k - 14 < 2 := by omega
    have h3 : 14 + (k - 14) = k := by omega
    simpa [Word.kField, h2, h3] using this

/-- A CHAR token with a code of at most 255 is the one the encoder writes for that code. -/
theorem charToken_of {t : Word} (hk : t.kField = 0b00#2) (hc : ¬ 255 < t.codeField.toNat) :
    charToken (t.codeField.extractLsb' 0 8) = t := by
  refine token_ext (by simp [hk]) ?_
  apply BitVec.eq_of_toNat_eq
  have h1 : (charToken (t.codeField.extractLsb' 0 8)).codeField.toNat = (t.codeField.extractLsb' 0 8).toNat := by
    generalize t.codeField.extractLsb' 0 8 = c
    revert c; decide
  rw [h1]
  simp [BitVec.extractLsb'_toNat]
  omega

/-- The payload of a list of strings has the length `payloadLength` says. -/
theorem encodePayload_length (strings : List CharString) :
    (encodePayload strings).length = payloadLength strings := by
  induction strings with
  | nil => rfl
  | cons s rest ih => simp [encodePayload, payloadLength, ih]; omega

/-- The decoder reads back the CHAR tokens of a string. -/
theorem decodePayload_chars (opened : Bool) (cur : CharString) (strs : List CharString) (s : CharString)
    (ts : List Word) :
    decodePayload opened cur strs (s.map charToken ++ ts) =
      decodePayload (opened || !s.isEmpty) (cur ++ s) strs ts := by
  induction s generalizing opened cur with
  | nil => simp
  | cons c s ih => simp [decodePayload, ih]

end Sys2Proof.Laws
end

