-- ==== Sys2Proof/Laws/State.lean ====
section
/-! SUPPORT. Every field of the state after every shared operation, true by computation. -/

namespace Sys2Proof.Laws

open Sys2Proof.Machine Sys2Proof.Safety

/-! ### record -/

@[simp] theorem record_pins (e : TraceEvent) (s : State) : (record e s).pins = s.pins := rfl
@[simp] theorem record_settle (e : TraceEvent) (s : State) : (record e s).settle = s.settle := rfl
@[simp] theorem record_tmr (e : TraceEvent) (s : State) : (record e s).tmr = s.tmr := rfl
@[simp] theorem record_seq (e : TraceEvent) (s : State) : (record e s).seq = s.seq := rfl
@[simp] theorem record_ev (e : TraceEvent) (s : State) : (record e s).ev = s.ev := rfl
@[simp] theorem record_upc (e : TraceEvent) (s : State) : (record e s).upc = s.upc := rfl
@[simp] theorem record_status (e : TraceEvent) (s : State) : (record e s).status = s.status := rfl
@[simp] theorem record_params (e : TraceEvent) (s : State) : (record e s).params = s.params := rfl
@[simp] theorem record_rst (e : TraceEvent) (s : State) : (record e s).rst = s.rst := rfl
@[simp] theorem record_cmdPort (e : TraceEvent) (s : State) : (record e s).cmdPort = s.cmdPort := rfl
@[simp] theorem record_pinPort (e : TraceEvent) (s : State) : (record e s).pinPort = s.pinPort := rfl
@[simp] theorem record_trace (e : TraceEvent) (s : State) : (record e s).trace = s.trace ++ [e] := rfl
@[simp] theorem record_results (e : TraceEvent) (s : State) : (record e s).results = s.results := rfl

/-! ### setLatch -/

@[simp] theorem setLatch_pins (p : Pin) (l : Latch) (s : State) : (setLatch p l s).pins = s.pins.set p l := rfl
@[simp] theorem setLatch_settle (p : Pin) (l : Latch) (s : State) : (setLatch p l s).settle = s.settle := rfl
@[simp] theorem setLatch_tmr (p : Pin) (l : Latch) (s : State) : (setLatch p l s).tmr = s.tmr := rfl
@[simp] theorem setLatch_seq (p : Pin) (l : Latch) (s : State) : (setLatch p l s).seq = s.seq := rfl
@[simp] theorem setLatch_ev (p : Pin) (l : Latch) (s : State) : (setLatch p l s).ev = s.ev := rfl
@[simp] theorem setLatch_upc (p : Pin) (l : Latch) (s : State) : (setLatch p l s).upc = s.upc := rfl
@[simp] theorem setLatch_status (p : Pin) (l : Latch) (s : State) : (setLatch p l s).status = s.status := rfl
@[simp] theorem setLatch_params (p : Pin) (l : Latch) (s : State) : (setLatch p l s).params = s.params := rfl
@[simp] theorem setLatch_rst (p : Pin) (l : Latch) (s : State) : (setLatch p l s).rst = s.rst := rfl
@[simp] theorem setLatch_cmdPort (p : Pin) (l : Latch) (s : State) : (setLatch p l s).cmdPort = s.cmdPort := rfl
@[simp] theorem setLatch_pinPort (p : Pin) (l : Latch) (s : State) : (setLatch p l s).pinPort = s.pinPort := rfl
@[simp] theorem setLatch_trace (p : Pin) (l : Latch) (s : State) : (setLatch p l s).trace = s.trace := rfl
@[simp] theorem setLatch_results (p : Pin) (l : Latch) (s : State) : (setLatch p l s).results = s.results := rfl

/-! ### advance -/

@[simp] theorem advance_pins (s : State) : (advance s).pins = s.pins := rfl
@[simp] theorem advance_settle (s : State) : (advance s).settle = s.settle := rfl
@[simp] theorem advance_tmr (s : State) : (advance s).tmr = s.tmr := rfl
@[simp] theorem advance_seq (s : State) : (advance s).seq = s.seq := rfl
@[simp] theorem advance_ev (s : State) : (advance s).ev = s.ev := rfl
@[simp] theorem advance_upc (s : State) : (advance s).upc = s.upc + 1 := rfl
@[simp] theorem advance_status (s : State) : (advance s).status = s.status := rfl
@[simp] theorem advance_params (s : State) : (advance s).params = s.params := rfl
@[simp] theorem advance_rst (s : State) : (advance s).rst = s.rst := rfl
@[simp] theorem advance_cmdPort (s : State) : (advance s).cmdPort = s.cmdPort := rfl
@[simp] theorem advance_pinPort (s : State) : (advance s).pinPort = s.pinPort := rfl
@[simp] theorem advance_trace (s : State) : (advance s).trace = s.trace := rfl
@[simp] theorem advance_results (s : State) : (advance s).results = s.results := rfl

/-! ### toIdle -/

@[simp] theorem toIdle_pins (s : State) : (toIdle s).pins = s.pins := rfl
@[simp] theorem toIdle_settle (s : State) : (toIdle s).settle = s.settle := rfl
@[simp] theorem toIdle_tmr (s : State) : (toIdle s).tmr = 0 := rfl
@[simp] theorem toIdle_seq (s : State) : (toIdle s).seq = .idle := rfl
@[simp] theorem toIdle_ev (s : State) : (toIdle s).ev = [] := rfl
@[simp] theorem toIdle_upc (s : State) : (toIdle s).upc = 0 := rfl
@[simp] theorem toIdle_status (s : State) : (toIdle s).status = s.status := rfl
@[simp] theorem toIdle_params (s : State) : (toIdle s).params = s.params := rfl
@[simp] theorem toIdle_rst (s : State) : (toIdle s).rst = s.rst := rfl
@[simp] theorem toIdle_cmdPort (s : State) : (toIdle s).cmdPort = s.cmdPort := rfl
@[simp] theorem toIdle_pinPort (s : State) : (toIdle s).pinPort = s.pinPort := rfl
@[simp] theorem toIdle_trace (s : State) : (toIdle s).trace = s.trace := rfl
@[simp] theorem toIdle_results (s : State) : (toIdle s).results = s.results := rfl

/-! ### report -/

@[simp] theorem report_pins (st : Status) (s : State) : (report st s).pins = s.pins := rfl
@[simp] theorem report_settle (st : Status) (s : State) : (report st s).settle = s.settle := rfl
@[simp] theorem report_tmr (st : Status) (s : State) : (report st s).tmr = s.tmr := rfl
@[simp] theorem report_seq (st : Status) (s : State) : (report st s).seq = s.seq := rfl
@[simp] theorem report_ev (st : Status) (s : State) : (report st s).ev = s.ev := rfl
@[simp] theorem report_upc (st : Status) (s : State) : (report st s).upc = s.upc := rfl
@[simp] theorem report_status (st : Status) (s : State) : (report st s).status = st := rfl
@[simp] theorem report_params (st : Status) (s : State) : (report st s).params = s.params := rfl
@[simp] theorem report_rst (st : Status) (s : State) : (report st s).rst = s.rst := rfl
@[simp] theorem report_cmdPort (st : Status) (s : State) : (report st s).cmdPort = s.cmdPort := rfl
@[simp] theorem report_pinPort (st : Status) (s : State) : (report st s).pinPort = s.pinPort := rfl
@[simp] theorem report_trace (st : Status) (s : State) : (report st s).trace = s.trace := rfl
@[simp] theorem report_results (st : Status) (s : State) : (report st s).results = s.results ++ [(st.res, st.errPin)] := rfl

/-! ### tickRst -/

@[simp] theorem tickRst_pins (s : State) : (tickRst s).pins = s.pins := rfl
@[simp] theorem tickRst_settle (s : State) : (tickRst s).settle = s.settle := rfl
@[simp] theorem tickRst_tmr (s : State) : (tickRst s).tmr = s.tmr := rfl
@[simp] theorem tickRst_seq (s : State) : (tickRst s).seq = s.seq := rfl
@[simp] theorem tickRst_ev (s : State) : (tickRst s).ev = s.ev := rfl
@[simp] theorem tickRst_upc (s : State) : (tickRst s).upc = s.upc := rfl
@[simp] theorem tickRst_status (s : State) : (tickRst s).status = s.status := rfl
@[simp] theorem tickRst_params (s : State) : (tickRst s).params = s.params := rfl
@[simp] theorem tickRst_rst (s : State) : (tickRst s).rst = s.rst.tail := rfl
@[simp] theorem tickRst_cmdPort (s : State) : (tickRst s).cmdPort = s.cmdPort := rfl
@[simp] theorem tickRst_pinPort (s : State) : (tickRst s).pinPort = s.pinPort := rfl
@[simp] theorem tickRst_trace (s : State) : (tickRst s).trace = s.trace := rfl
@[simp] theorem tickRst_results (s : State) : (tickRst s).results = s.results := rfl

/-! ### startSleep -/

@[simp] theorem startSleep_pins (s : State) : (startSleep s).pins = s.pins := rfl
@[simp] theorem startSleep_settle (s : State) : (startSleep s).settle = s.settle := rfl
@[simp] theorem startSleep_tmr (s : State) : (startSleep s).tmr = settleTicks s := rfl
@[simp] theorem startSleep_seq (s : State) : (startSleep s).seq = .sleep := rfl
@[simp] theorem startSleep_ev (s : State) : (startSleep s).ev = s.ev := rfl
@[simp] theorem startSleep_upc (s : State) : (startSleep s).upc = s.upc := rfl
@[simp] theorem startSleep_status (s : State) : (startSleep s).status = s.status := rfl
@[simp] theorem startSleep_params (s : State) : (startSleep s).params = s.params := rfl
@[simp] theorem startSleep_rst (s : State) : (startSleep s).rst = s.rst := rfl
@[simp] theorem startSleep_cmdPort (s : State) : (startSleep s).cmdPort = s.cmdPort := rfl
@[simp] theorem startSleep_pinPort (s : State) : (startSleep s).pinPort = s.pinPort := rfl
@[simp] theorem startSleep_trace (s : State) : (startSleep s).trace = s.trace ++ [.sleep] := rfl
@[simp] theorem startSleep_results (s : State) : (startSleep s).results = s.results := rfl

/-! ### complete -/

@[simp] theorem complete_pins (s : State) : (complete s).pins = s.pins := rfl
@[simp] theorem complete_settle (s : State) : (complete s).settle = s.settle := rfl
@[simp] theorem complete_tmr (s : State) : (complete s).tmr = 0 := rfl
@[simp] theorem complete_seq (s : State) : (complete s).seq = .idle := rfl
@[simp] theorem complete_ev (s : State) : (complete s).ev = [] := rfl
@[simp] theorem complete_upc (s : State) : (complete s).upc = 0 := rfl
@[simp] theorem complete_status (s : State) : (complete s).status = s.status.afterComplete := rfl
@[simp] theorem complete_params (s : State) : (complete s).params = s.params := rfl
@[simp] theorem complete_rst (s : State) : (complete s).rst = s.rst := rfl
@[simp] theorem complete_cmdPort (s : State) : (complete s).cmdPort = s.cmdPort := rfl
@[simp] theorem complete_pinPort (s : State) : (complete s).pinPort = s.pinPort := rfl
@[simp] theorem complete_trace (s : State) : (complete s).trace = s.trace := rfl
@[simp] theorem complete_results (s : State) : (complete s).results = s.results ++ [(.ok, s.status.errPin)] := rfl

/-! ### raisePinError -/

@[simp] theorem raisePinError_pins (p : Pin) (s : State) : (raisePinError p s).pins = s.pins := rfl
@[simp] theorem raisePinError_settle (p : Pin) (s : State) : (raisePinError p s).settle = s.settle := rfl
@[simp] theorem raisePinError_tmr (p : Pin) (s : State) : (raisePinError p s).tmr = 0 := rfl
@[simp] theorem raisePinError_seq (p : Pin) (s : State) : (raisePinError p s).seq = .idle := rfl
@[simp] theorem raisePinError_ev (p : Pin) (s : State) : (raisePinError p s).ev = [] := rfl
@[simp] theorem raisePinError_upc (p : Pin) (s : State) : (raisePinError p s).upc = 0 := rfl
@[simp] theorem raisePinError_status (p : Pin) (s : State) : (raisePinError p s).status = Status.afterPinError p := rfl
@[simp] theorem raisePinError_params (p : Pin) (s : State) : (raisePinError p s).params = s.params := rfl
@[simp] theorem raisePinError_rst (p : Pin) (s : State) : (raisePinError p s).rst = s.rst := rfl
@[simp] theorem raisePinError_cmdPort (p : Pin) (s : State) : (raisePinError p s).cmdPort = s.cmdPort := rfl
@[simp] theorem raisePinError_pinPort (p : Pin) (s : State) : (raisePinError p s).pinPort = s.pinPort := rfl
@[simp] theorem raisePinError_trace (p : Pin) (s : State) : (raisePinError p s).trace = s.trace := rfl
@[simp] theorem raisePinError_results (p : Pin) (s : State) : (raisePinError p s).results = s.results ++ [(.pinError, p.index)] := rfl

/-! ### raiseIllegal -/

@[simp] theorem raiseIllegal_pins (s : State) : (raiseIllegal s).pins = s.pins := rfl
@[simp] theorem raiseIllegal_settle (s : State) : (raiseIllegal s).settle = s.settle := rfl
@[simp] theorem raiseIllegal_tmr (s : State) : (raiseIllegal s).tmr = s.tmr := rfl
@[simp] theorem raiseIllegal_seq (s : State) : (raiseIllegal s).seq = s.seq := rfl
@[simp] theorem raiseIllegal_ev (s : State) : (raiseIllegal s).ev = s.ev := rfl
@[simp] theorem raiseIllegal_upc (s : State) : (raiseIllegal s).upc = s.upc := rfl
@[simp] theorem raiseIllegal_status (s : State) : (raiseIllegal s).status = s.status.afterIllegal := rfl
@[simp] theorem raiseIllegal_params (s : State) : (raiseIllegal s).params = s.params := rfl
@[simp] theorem raiseIllegal_rst (s : State) : (raiseIllegal s).rst = s.rst := rfl
@[simp] theorem raiseIllegal_cmdPort (s : State) : (raiseIllegal s).cmdPort = s.cmdPort := rfl
@[simp] theorem raiseIllegal_pinPort (s : State) : (raiseIllegal s).pinPort = s.pinPort := rfl
@[simp] theorem raiseIllegal_trace (s : State) : (raiseIllegal s).trace = s.trace := rfl
@[simp] theorem raiseIllegal_results (s : State) : (raiseIllegal s).results = s.results ++ [(.illegal, 0#4)] := rfl

/-! ### resetBlock -/

@[simp] theorem resetBlock_pins (s : State) : (resetBlock s).pins = Pins.unknown := rfl
@[simp] theorem resetBlock_settle (s : State) : (resetBlock s).settle = s.settle := rfl
@[simp] theorem resetBlock_tmr (s : State) : (resetBlock s).tmr = 0 := rfl
@[simp] theorem resetBlock_seq (s : State) : (resetBlock s).seq = .idle := rfl
@[simp] theorem resetBlock_ev (s : State) : (resetBlock s).ev = [] := rfl
@[simp] theorem resetBlock_upc (s : State) : (resetBlock s).upc = 0 := rfl
@[simp] theorem resetBlock_status (s : State) : (resetBlock s).status = Status.reset := rfl
@[simp] theorem resetBlock_params (s : State) : (resetBlock s).params = s.params := rfl
@[simp] theorem resetBlock_rst (s : State) : (resetBlock s).rst = s.rst := rfl
@[simp] theorem resetBlock_cmdPort (s : State) : (resetBlock s).cmdPort = s.cmdPort := rfl
@[simp] theorem resetBlock_pinPort (s : State) : (resetBlock s).pinPort = s.pinPort := rfl
@[simp] theorem resetBlock_trace (s : State) : (resetBlock s).trace = s.trace := rfl
@[simp] theorem resetBlock_results (s : State) : (resetBlock s).results = s.results := rfl

/-! ### accepted -/

@[simp] theorem accepted_pins (s : State) (es : List Event) : (accepted s es).pins = s.pins := rfl
@[simp] theorem accepted_settle (s : State) (es : List Event) : (accepted s es).settle = s.settle := rfl
@[simp] theorem accepted_tmr (s : State) (es : List Event) : (accepted s es).tmr = s.tmr := rfl
@[simp] theorem accepted_seq (s : State) (es : List Event) : (accepted s es).seq = .run := rfl
@[simp] theorem accepted_ev (s : State) (es : List Event) : (accepted s es).ev = es := rfl
@[simp] theorem accepted_upc (s : State) (es : List Event) : (accepted s es).upc = 0 := rfl
@[simp] theorem accepted_status (s : State) (es : List Event) : (accepted s es).status = Status.accepted := rfl
@[simp] theorem accepted_params (s : State) (es : List Event) : (accepted s es).params = s.params := rfl
@[simp] theorem accepted_rst (s : State) (es : List Event) : (accepted s es).rst = s.rst := rfl
@[simp] theorem accepted_cmdPort (s : State) (es : List Event) : (accepted s es).cmdPort = s.cmdPort := rfl
@[simp] theorem accepted_pinPort (s : State) (es : List Event) : (accepted s es).pinPort = s.pinPort := rfl
@[simp] theorem accepted_trace (s : State) (es : List Event) : (accepted s es).trace = s.trace := rfl
@[simp] theorem accepted_results (s : State) (es : List Event) : (accepted s es).results = s.results := rfl

/-! ### SETTLE_TICKS depends on SETTLE and T_TICK only -/

theorem settleTicks_congr {s t : State} (hs : t.settle = s.settle) (hp : t.params = s.params) :
    settleTicks t = settleTicks s := by
  simp [settleTicks, hs, hp]

/-! ### accept -/

theorem accept_idle {s : State} (h : s.seq = .idle) (es : List Event) : accept es s = accepted s es := by
  simp [accept, accepted, h, Status.accepted]

theorem accept_busy {s : State} (h : s.seq ≠ .idle) (es : List Event) : accept es s = s := by
  unfold accept
  split <;> simp_all

/-! ### Latches -/

@[simp] theorem get_set (pins : Pins) (p q : Pin) (l : Latch) :
    (pins.set p l).get q = if q = p then l else pins.get q := by
  cases p <;> cases q <;> rfl

theorem get_unknown (p : Pin) : Pins.unknown.get p = .unknown := by cases p <;> rfl

/-- Two sets of latches are equal when every latch is. -/
theorem pins_ext {a b : Pins} (h : ∀ p, a.get p = b.get p) : a = b := by
  cases a
  cases b
  simp only [Pins.mk.injEq]
  exact ⟨h .d0, h .d1, h .d2, h .d3, h .d4, h .d5, h .d6, h .d7, h .rs, h .rw, h .e⟩

end Sys2Proof.Laws
end

