-- ==== Sys2Proof/Laws/Ops.lean ====
section
/-! SUPPORT. What each shared operation and each part of the step can do, said once. -/

namespace Sys2Proof.Laws

open Sys2Proof.Machine Sys2Proof.Safety

/-! ### Every command is accepted with its own event list -/

/-- The meaning of a command is to be accepted with `events` of it. -/
theorem exec_eq (i : Instr) (s : State) : exec i s = .next (accept (events i) s) := by cases i <;> rfl

/-- An idle block accepts every command. -/
theorem exec_idle (i : Instr) {s : State} (h : s.seq = .idle) : exec i s = .next (accepted s (events i)) := by
  rw [exec_eq, accept_idle h]

/-! ### PinWrite -/

/-- What `PinWrite` can do: wait, complete, or raise `PinError`. -/
theorem pinWrite_cases (p : Pin) (v : Level) (s : State) :
    (s.pinPort = [] ∧ pinWrite p v s = s) ∨
    (∃ port, s.pinPort = none :: port ∧ pinWrite p v s = { s with pinPort := port }) ∨
    (∃ port, s.pinPort = some .ok :: port ∧
      pinWrite p v s = advance (setLatch p (.level v) (record (.write p v .ok) { s with pinPort := port }))) ∨
    (∃ port, s.pinPort = some .err :: port ∧
      pinWrite p v s =
        raisePinError p (setLatch p .unknown (record (.write p v .err) { s with pinPort := port }))) := by
  rcases h : s.pinPort with _ | ⟨_ | _ | _, port⟩ <;> simp [pinWrite, h]

/-! ### The step, mode by mode -/

/-- With `rst` high the step is a reset. -/
theorem step_reset {s : State} (h : rstNow s = true) : step s = .next (resetBlock (tickRst s)) := by
  simp [step, stepBlock, h]

/-- With `rst` low the step is the sequencer's. -/
theorem step_low {s : State} (h : rstNow s = false) : step s = stepSequencer (tickRst s) := by
  simp [step, stepBlock, h]

/-- An idle block that is offered nothing. -/
theorem step_idle_nothing {s : State} (h : rstNow s = false) (hs : s.seq = .idle) (hc : s.cmdPort = []) :
    step s = .next (tickRst s) := by
  simp [step_low h, stepSequencer, hs, stepIdle, hc]

/-- An idle block whose host waits. -/
theorem step_idle_wait {s : State} {port : List (Option Packet)} (h : rstNow s = false) (hs : s.seq = .idle)
    (hc : s.cmdPort = none :: port) : step s = .next { tickRst s with cmdPort := port } := by
  simp [step_low h, stepSequencer, hs, stepIdle, hc]

/-- An idle block offered a legal packet runs the command. -/
theorem step_idle_legal {s : State} {P : Packet} {port : List (Option Packet)} {i : Instr} (h : rstNow s = false)
    (hs : s.seq = .idle) (hc : s.cmdPort = some P :: port) (hd : decode s.params.pktMax P = .ok i) :
    step s = .next (accepted { tickRst s with cmdPort := port } (events i)) := by
  rw [step_low h, stepSequencer, tickRst_seq, hs]
  show stepIdle (tickRst s) = _
  rw [stepIdle, tickRst_cmdPort, hc]
  show (match decode s.params.pktMax P with
    | .error _ => Host.Outcome.next (raiseIllegal { tickRst s with cmdPort := port })
    | .ok i => exec i { tickRst s with cmdPort := port }) = _
  rw [hd]
  exact exec_idle i hs

/-- An idle block offered an illegal packet refuses it. -/
theorem step_idle_illegal {s : State} {P : Packet} {port : List (Option Packet)} {e : Illegal} (h : rstNow s = false)
    (hs : s.seq = .idle) (hc : s.cmdPort = some P :: port) (hd : decode s.params.pktMax P = .error e) :
    step s = .next (raiseIllegal { tickRst s with cmdPort := port }) := by
  simp [step_low h, stepSequencer, hs, stepIdle, hc, hd]

/-- A running block at the end of its event list completes. -/
theorem step_run_end {s : State} (h : rstNow s = false) (hs : s.seq = .run) (hu : s.upc = s.ev.length) :
    step s = .next (complete (tickRst s)) := by
  simp [step_low h, stepSequencer, hs, stepRun, hu]

/-- A running block at a write. -/
theorem step_run_write {s : State} {p : Pin} {v : Level} (h : rstNow s = false) (hs : s.seq = .run)
    (he : s.ev[s.upc]? = some (.write p v)) : step s = .next (pinWrite p v (tickRst s)) := by
  have hlt : s.upc ≠ s.ev.length := fun hc => by simp [hc] at he
  simp [step_low h, stepSequencer, hs, stepRun, hlt, he]

/-- A running block at a sleep. -/
theorem step_run_sleep {s : State} (h : rstNow s = false) (hs : s.seq = .run)
    (he : s.ev[s.upc]? = some .sleep) : step s = .next (startSleep (tickRst s)) := by
  have hlt : s.upc ≠ s.ev.length := fun hc => by simp [hc] at he
  simp [step_low h, stepSequencer, hs, stepRun, hlt, he]

/-- A sleeping block. -/
theorem step_sleep {s : State} (h : rstNow s = false) (hs : s.seq = .sleep) :
    step s = .next (sleepTick (tickRst s)) := by
  simp [step_low h, stepSequencer, hs]

/-- Everything a step can do when it answers a next state. -/
theorem step_cases {s t : State} (h : step s = .next t) :
    (rstNow s = true ∧ t = resetBlock (tickRst s)) ∨
    (rstNow s = false ∧ s.seq = .idle ∧
      ((s.cmdPort = [] ∧ t = tickRst s) ∨
       (∃ port, s.cmdPort = none :: port ∧ t = { tickRst s with cmdPort := port }) ∨
       (∃ P port e, s.cmdPort = some P :: port ∧ decode s.params.pktMax P = .error e ∧
          t = raiseIllegal { tickRst s with cmdPort := port }) ∨
       (∃ P port i, s.cmdPort = some P :: port ∧ decode s.params.pktMax P = .ok i ∧
          t = accepted { tickRst s with cmdPort := port } (events i)))) ∨
    (rstNow s = false ∧ s.seq = .run ∧
      ((s.upc = s.ev.length ∧ t = complete (tickRst s)) ∨
       (∃ p v, s.ev[s.upc]? = some (.write p v) ∧ t = pinWrite p v (tickRst s)) ∨
       (s.ev[s.upc]? = some .sleep ∧ t = startSleep (tickRst s)))) ∨
    (rstNow s = false ∧ s.seq = .sleep ∧ t = sleepTick (tickRst s)) := by
  rcases hr : rstNow s with _ | _
  · refine .inr ?_
    rcases hs : s.seq with _ | _ | _
    · refine .inl ⟨rfl, rfl, ?_⟩
      rcases hc : s.cmdPort with _ | ⟨_ | P, port⟩
      · rw [step_idle_nothing hr hs hc] at h
        exact .inl ⟨rfl, by simpa using h.symm⟩
      · rw [step_idle_wait hr hs hc] at h
        exact .inr (.inl ⟨port, rfl, by simpa using h.symm⟩)
      · rcases hd : decode s.params.pktMax P with e | i
        · rw [step_idle_illegal hr hs hc hd] at h
          exact .inr (.inr (.inl ⟨P, port, e, rfl, hd, by simpa using h.symm⟩))
        · rw [step_idle_legal hr hs hc hd] at h
          exact .inr (.inr (.inr ⟨P, port, i, rfl, hd, by simpa using h.symm⟩))
    · refine .inr (.inl ⟨rfl, rfl, ?_⟩)
      by_cases hu : s.upc = s.ev.length
      · rw [step_run_end hr hs hu] at h
        exact .inl ⟨hu, by simpa using h.symm⟩
      · rcases he : s.ev[s.upc]? with _ | (⟨p, v⟩ | _)
        · simp [step_low hr, stepSequencer, hs, stepRun, hu, he] at h
        · rw [step_run_write hr hs he] at h
          exact .inr (.inl ⟨p, v, rfl, by simpa using h.symm⟩)
        · rw [step_run_sleep hr hs he] at h
          exact .inr (.inr ⟨rfl, by simpa using h.symm⟩)
    · rw [step_sleep hr hs] at h
      exact .inr (.inr ⟨rfl, rfl, by simpa using h.symm⟩)
  · rw [step_reset hr] at h
    exact .inl ⟨rfl, by simpa using h.symm⟩

/-! ### Runs -/

@[simp] theorem runSteps_zero (s : State) : runSteps 0 s = .next s := rfl

/-- One step, then the rest. -/
theorem runSteps_succ {s t : State} (h : step s = .next t) (n : Nat) : runSteps (n + 1) s = runSteps n t := by
  simp [runSteps, h]

/-- A run of `m + n` steps is a run of `m` and then one of `n`. -/
theorem runSteps_add {s t : State} {m : Nat} (h : runSteps m s = .next t) (n : Nat) :
    runSteps (m + n) s = runSteps n t := by
  induction m generalizing s with
  | zero =>
    obtain rfl : s = t := by simpa using h
    simp
  | succ m ih =>
    rw [Nat.add_right_comm]
    rcases hs : step s with u | r | r
    · rw [runSteps_succ hs] at h ⊢
      exact ih h
    · simp [runSteps, hs] at h
    · simp [runSteps, hs] at h

/-- One step of a host run, then the rest. -/
theorem host_run_next {M : Host.Core} {s t : M.State} (h : M.step s = .next t) (n : Nat) :
    M.run (n + 1) s = M.run n t := by
  simp [Host.Core.run, h]

theorem host_run_fault {M : Host.Core} {s : M.State} {r : M.Fault} (h : M.step s = .fault r) (n : Nat) :
    M.run (n + 1) s = .fault r := by
  simp [Host.Core.run, h]

theorem host_run_refused {M : Host.Core} {s : M.State} {r : M.Refusal} (h : M.step s = .refused r) (n : Nat) :
    M.run (n + 1) s = .refused r := by
  simp [Host.Core.run, h]

/-- The model's runs are the host's. -/
theorem runSteps_eq_run (n : Nat) (s : State) : runSteps n s = Sys2Proof.core.run n s := by
  induction n generalizing s with
  | zero => rfl
  | succ n ih =>
    rcases h : step s with t | r | r
    · exact (runSteps_succ h n).trans ((ih t).trans (host_run_next (M := Sys2Proof.core) h n).symm)
    · exact (by simp [runSteps, h] : runSteps (n + 1) s = .fault r).trans
        (host_run_fault (M := Sys2Proof.core) h n).symm
    · exact (by simp [runSteps, h] : runSteps (n + 1) s = .refused r).trans
        (host_run_refused (M := Sys2Proof.core) h n).symm

/-- `rst` low at every coming step is low at the next one. -/
theorem rstLow_now {s : State} (h : RstLow s) : rstNow s = false := by
  rcases hr : s.rst with _ | ⟨b, bs⟩
  · simp [rstNow, hr]
  · simp [rstNow, hr, h b (by simp [hr])]

/-- It stays so, however many levels have been used. -/
theorem rstLow_drop {s t : State} (n : Nat) (h : RstLow s) (ht : t.rst = s.rst.drop n) : RstLow t := fun v hv => by
  rw [ht] at hv
  exact h v (List.mem_of_mem_drop hv)

theorem rstLow_tail {s t : State} (h : RstLow s) (ht : t.rst = s.rst.tail) : RstLow t :=
  rstLow_drop 1 h (by simp [ht])

/-! ### What a list of events does -/

@[simp] theorem writeCount_append (a b : List Event) : writeCount (a ++ b) = writeCount a + writeCount b := by
  induction a with
  | nil => simp [writeCount]
  | cons e a ih => cases e <;> (simp [writeCount, ih]; try omega)

@[simp] theorem sleepCount_append (a b : List Event) : sleepCount (a ++ b) = sleepCount a + sleepCount b := by
  induction a with
  | nil => simp [sleepCount]
  | cons e a ih => cases e <;> (simp [sleepCount, ih]; try omega)

@[simp] theorem latchesAfter_append (pins : Pins) (a b : List Event) :
    latchesAfter pins (a ++ b) = latchesAfter (latchesAfter pins a) b := by
  induction a generalizing pins with
  | nil => rfl
  | cons e a ih => cases e <;> simp [latchesAfter, ih]

@[simp] theorem okTrace_append (a b : List Event) : okTrace (a ++ b) = okTrace a ++ okTrace b := by
  induction a with
  | nil => rfl
  | cons e a ih => cases e <;> simp [okTrace, ih]

@[simp] theorem stepCount_append (k : Nat) (a b : List Event) :
    stepCount k (a ++ b) = stepCount k a + stepCount k b := by
  induction a with
  | nil => simp [stepCount]
  | cons e a ih => cases e <;> (simp [stepCount, ih]; try omega)

end Sys2Proof.Laws
end

