-- ==== Sys2Proof/Laws/PerInstr.lean ====
section
/-! SUPPORT. Facts about every command, one lemma per command. -/

namespace Sys2Proof.Laws

open Sys2Proof.Machine Sys2Proof.Safety

/-- A packet has the number of words that `packetLength` says (30_encoding.md R44). -/
def EncodeLength.Statement (i : Instr) : Prop := (encode i).length = i.packetLength

/-- A write to RW in an event list is to 0 (10_state.md R12). -/
def EventsKeepRwLow.Statement (i : Instr) : Prop := ∀ v : Level, Event.write .rw v ∈ events i → v = false

/-! ### RW in the framings -/

theorem busWrites_no_rw (v : Byte) (l : Level) : Event.write .rw l ∉ busWrites v := by simp [busWrites]

theorem offWrites_rw_low (l : Level) (h : Event.write .rw l ∈ offWrites) : l = false := by
  simpa [offWrites] using h

theorem framingSet_rw_low (selected : List Pin) (hs : .rw ∉ selected) (l : Level)
    (h : Event.write .rw l ∈ framingSet selected) : l = false := by
  simp only [framingSet, eRise, eFall, List.mem_append, List.mem_cons, List.mem_map] at h
  rcases h with (h | h | ⟨p, hp, h⟩) | h | h
  · exact offWrites_rw_low l h
  · cases h
  · cases h
    exact absurd hp hs
  · cases h
  · cases h

theorem framingEB_rw_low (v : Byte) (l : Level) (h : Event.write .rw l ∈ framingEB v) : l = false := by
  simp [framingEB, busWrites_no_rw, eRise, eFall] at h

theorem framingBES_rw_low (v : Byte) (l : Level) (h : Event.write .rw l ∈ framingBES v) : l = false := by
  simp [framingBES, busWrites_no_rw, eRise, eFall] at h

theorem cells_no_rw (strings : List CharString) (l : Level) : Event.write .rw l ∉ cells strings := by
  simp [cells, framingEBS, busWrites_no_rw, eRise, eFall]

theorem streamEvents_rw_low (strings : List CharString) (l : Level)
    (h : Event.write .rw l ∈ streamEvents strings) : l = false := by
  simpa [streamEvents, cells_no_rw, offWrites] using h

/-! ### Per command -/

theorem EncodeLength.alloff : EncodeLength.Statement .alloff := rfl

theorem EncodeLength.init (f : Bool) : EncodeLength.Statement (.init f) := rfl

theorem EncodeLength.clear : EncodeLength.Statement .clear := rfl

theorem EncodeLength.home : EncodeLength.Statement .home := rfl

theorem EncodeLength.dir (f : Bool) : EncodeLength.Statement (.dir f) := rfl

theorem EncodeLength.curl : EncodeLength.Statement .curl := rfl

theorem EncodeLength.curr : EncodeLength.Statement .curr := rfl

theorem EncodeLength.shl : EncodeLength.Statement .shl := rfl

theorem EncodeLength.shr : EncodeLength.Statement .shr := rfl

theorem EncodeLength.sendb (v : Byte) : EncodeLength.Statement (.sendb v) := rfl

theorem EncodeLength.stream (strings : List CharString) : EncodeLength.Statement (.stream strings) := by
  simp [EncodeLength.Statement, encode, Instr.packetLength, encodePayload_length]
  omega

theorem EncodeLength.print (strings : List CharString) (w : Byte) : EncodeLength.Statement (.print strings w) := by
  simp [EncodeLength.Statement, encode, Instr.packetLength, encodePayload_length]
  omega

theorem EventsKeepRwLow.alloff : EventsKeepRwLow.Statement .alloff :=
  offWrites_rw_low

theorem EventsKeepRwLow.init (f : Bool) : EventsKeepRwLow.Statement (.init f) :=
  framingSet_rw_low (initPins f) (by cases f <;> decide)

theorem EventsKeepRwLow.clear : EventsKeepRwLow.Statement .clear :=
  framingSet_rw_low [.d0] (by decide)

theorem EventsKeepRwLow.home : EventsKeepRwLow.Statement .home :=
  framingEB_rw_low _

theorem EventsKeepRwLow.dir (f : Bool) : EventsKeepRwLow.Statement (.dir f) :=
  framingEB_rw_low _

theorem EventsKeepRwLow.curl : EventsKeepRwLow.Statement .curl :=
  framingBES_rw_low _

theorem EventsKeepRwLow.curr : EventsKeepRwLow.Statement .curr :=
  framingEB_rw_low _

theorem EventsKeepRwLow.shl : EventsKeepRwLow.Statement .shl :=
  framingBES_rw_low _

theorem EventsKeepRwLow.shr : EventsKeepRwLow.Statement .shr :=
  framingEB_rw_low _

theorem EventsKeepRwLow.sendb (v : Byte) : EventsKeepRwLow.Statement (.sendb v) :=
  fun l h => absurd h (busWrites_no_rw v l)

theorem EventsKeepRwLow.stream (strings : List CharString) : EventsKeepRwLow.Statement (.stream strings) :=
  streamEvents_rw_low strings

theorem EventsKeepRwLow.print (strings : List CharString) (w : Byte) : EventsKeepRwLow.Statement (.print strings w) :=
  streamEvents_rw_low (strings.map (pad w))

/-- Every command keeps RW low. -/
theorem events_rw_low (i : Instr) : EventsKeepRwLow.Statement i := by
  cases i
  case alloff => exact EventsKeepRwLow.alloff
  case init f => exact EventsKeepRwLow.init f
  case clear => exact EventsKeepRwLow.clear
  case home => exact EventsKeepRwLow.home
  case dir f => exact EventsKeepRwLow.dir f
  case curl => exact EventsKeepRwLow.curl
  case curr => exact EventsKeepRwLow.curr
  case shl => exact EventsKeepRwLow.shl
  case shr => exact EventsKeepRwLow.shr
  case sendb v => exact EventsKeepRwLow.sendb v
  case stream strings => exact EventsKeepRwLow.stream strings
  case print strings w => exact EventsKeepRwLow.print strings w

end Sys2Proof.Laws
end

