-- ==== Sys2Proof/Tests/Slice0.lean ====
section
/-! SUPPORT. Tests with expected values from spec/95_test_vectors.md (its section is named at each group), and for every
statement with hypotheses a concrete state that meets them. -/

namespace Sys2Proof.Tests

open Sys2Proof.Machine Sys2Proof.Safety

/-! ### Small states -/

/-- All eleven latches `0`. -/
def lowPins : Pins := ⟨.level false, .level false, .level false, .level false, .level false, .level false, .level false,
  .level false, .level false, .level false, .level false⟩

/-- All eleven latches `1`. -/
def highPins : Pins := ⟨.level true, .level true, .level true, .level true, .level true, .level true, .level true,
  .level true, .level true, .level true, .level true⟩

/-- The block after a completed `alloff`: all-0, STATUS 0/OK/0, with these inputs to come. -/
def idleWith (cmd : List (Option Packet)) (port : List (Option PinAnswer)) : State :=
  { State.reset with pins := lowPins, status := ⟨false, .ok, 0#4⟩, cmdPort := cmd, pinPort := port }

/-- The block in `i` at the event `upc`, from all-0. -/
def runWith (i : Instr) (upc : Nat) (port : List (Option PinAnswer)) : State :=
  { idleWith [] port with seq := .run, ev := events i, upc := upc, status := ⟨true, .none, 0#4⟩ }

/-- The block in `curl` with its sleep in progress, T_TICK 1.08 ms, so SETTLE_TICKS is 2. -/
def sleepWith (tmr : Nat) : State :=
  { runWith .curl 9 [] with seq := .sleep, tmr := tmr, params := ⟨some ⟨1080000, 1⟩, none⟩ }

/-- `pins` with RS, RW, E unknown and the byte `b` on the data lines. -/
def onlyDb (b : Byte) : Pins := Pins.unknown.withDb b

/-! ### WellFormed: the ill-formed terms are refused -/

theorem test_wellFormed_stream_too_long : (Instr.stream [[0x41#8, 0x42#8]]).wellFormed (some 4) = false := by decide

theorem test_wellFormed_stream_just_fits :
    (Instr.stream [[0x41#8, 0x42#8]]).wellFormed (some 5) = true ∧
      (Instr.stream [[0x41#8, 0x42#8]]).wellFormed none = true := by decide

theorem test_wellFormed_print_too_long : (Instr.print [] 20#8).wellFormed (some 1) = false := by decide

theorem test_wellFormed_no_room : Instr.alloff.wellFormed (some 0) = false ∧ Instr.alloff.wellFormed (some 1) = true := by
  decide

/-! ### Decoding, 95_test_vectors.md 2.1: the words as the spec writes them -/

theorem test_decode_alloff : decode none [0x0000#16] = .ok .alloff := by decide
theorem test_decode_init :
    decode none [0x1000#16] = .ok (.init false) ∧ decode none [0x1100#16] = .ok (.init true) := by decide
theorem test_decode_clear : decode none [0x2000#16] = .ok .clear := by decide
theorem test_decode_home : decode none [0x3000#16] = .ok .home := by decide
theorem test_decode_dir :
    decode none [0x4000#16] = .ok (.dir false) ∧ decode none [0x4100#16] = .ok (.dir true) := by decide
theorem test_decode_curl : decode none [0x5000#16] = .ok .curl := by decide
theorem test_decode_curr : decode none [0x6000#16] = .ok .curr := by decide
theorem test_decode_shl : decode none [0x7000#16] = .ok .shl := by decide
theorem test_decode_shr : decode none [0x8000#16] = .ok .shr := by decide
theorem test_decode_sendb :
    decode none [0x9000#16] = .ok (.sendb 0x00#8) ∧ decode none [0x90A5#16] = .ok (.sendb 0xA5#8) ∧
      decode none [0x90FF#16] = .ok (.sendb 0xFF#8) := by decide
theorem test_decode_stream_empty :
    decode none [0xA000#16, 0x8000#16] = .ok (.stream []) ∧
      decode none [0xA000#16, 0x4000#16, 0x8000#16] = .ok (.stream [[]]) := by decide
theorem test_decode_stream :
    decode none [0xA000#16, 0x0041#16, 0x0042#16, 0x4000#16, 0x0043#16, 0x4000#16, 0x8000#16] =
        .ok (.stream [[0x41#8, 0x42#8], [0x43#8]]) ∧
      decode none [0xA000#16, 0x0000#16, 0x00FF#16, 0x4000#16, 0x8000#16] = .ok (.stream [[0x00#8, 0xFF#8]]) := by
  decide
theorem test_decode_print_empty :
    decode none [0xB014#16, 0x8000#16] = .ok (.print [] 20#8) ∧
      decode none [0xB014#16, 0x4000#16, 0x8000#16] = .ok (.print [[]] 20#8) := by decide
theorem test_decode_print :
    decode none [0xB014#16, 0x0048#16, 0x0069#16, 0x4000#16, 0x8000#16] = .ok (.print [[0x48#8, 0x69#8]] 20#8) ∧
      decode none [0xB000#16, 0x0048#16, 0x0069#16, 0x4000#16, 0x4000#16, 0x8000#16] =
        .ok (.print [[0x48#8, 0x69#8], []] 0#8) ∧
      decode none [0xB0FF#16, 0x0061#16, 0x4000#16, 0x8000#16] = .ok (.print [[0x61#8]] 255#8) := by decide

/-! ### Decoding, 95_test_vectors.md 2.2: each condition I1 to I13 -/

theorem test_illegal_I1 : decode none [] = .error .emptyPacket := by decide
theorem test_illegal_I2 :
    decode (some 4) [0xA000#16, 0x0041#16, 0x0042#16, 0x4000#16, 0x8000#16] = .error .packetTooLong ∧
      decode none [0xA000#16, 0x0041#16, 0x0042#16, 0x4000#16, 0x8000#16] = .ok (.stream [[0x41#8, 0x42#8]]) := by
  decide
theorem test_illegal_I3 :
    decode none [0xC000#16] = .error .reservedOp ∧ decode none [0xD123#16] = .error .reservedOp ∧
      decode none [0xF000#16] = .error .reservedOp := by decide
theorem test_illegal_I4 :
    decode none [0x0200#16] = .error .reservedBits ∧ decode none [0x1E00#16] = .error .reservedBits ∧
      decode none [0x9AA5#16] = .error .reservedBits := by decide
theorem test_illegal_I5 :
    decode none [0x0100#16] = .error .flagNotAllowed ∧ decode none [0x2100#16] = .error .flagNotAllowed ∧
      decode none [0x9155#16] = .error .flagNotAllowed ∧ decode none [0xA100#16, 0x8000#16] = .error .flagNotAllowed := by
  decide
theorem test_illegal_I6 :
    decode none [0x0001#16] = .error .immNotAllowed ∧ decode none [0x1101#16] = .error .immNotAllowed ∧
      decode none [0x3002#16] = .error .immNotAllowed ∧ decode none [0xA014#16, 0x8000#16] = .error .immNotAllowed := by
  decide
theorem test_illegal_I7 :
    decode none [0x2000#16, 0x8000#16] = .error .extraWords ∧
      decode none [0x9041#16, 0x0041#16] = .error .extraWords := by decide
theorem test_illegal_I8 :
    decode none [0xA000#16] = .error .noEnd ∧ decode none [0xB014#16, 0x0048#16, 0x4000#16] = .error .noEnd := by decide
theorem test_illegal_I9 : decode none [0xA000#16, 0xC000#16, 0x8000#16] = .error .reservedToken := by decide
theorem test_illegal_I10 :
    decode none [0xA000#16, 0x0100#16, 0x4000#16, 0x8000#16] = .error .charTooLarge ∧
      decode none [0xB014#16, 0x20AC#16, 0x4000#16, 0x8000#16] = .error .charTooLarge := by decide
theorem test_illegal_I11 :
    decode none [0xA000#16, 0x4001#16, 0x8000#16] = .error .codeNotZero ∧
      decode none [0xA000#16, 0x8001#16] = .error .codeNotZero := by decide
theorem test_illegal_I12 : decode none [0xA000#16, 0x0041#16, 0x8000#16] = .error .endInsideString := by decide
theorem test_illegal_I13 :
    decode none [0xA000#16, 0x8000#16, 0x0041#16] = .error .wordsAfterEnd ∧
      decode none [0xA000#16, 0x8000#16, 0x8000#16] = .error .wordsAfterEnd := by decide

/-! ### The host's numbering: each table row's word, and that the first step after reset takes it -/

theorem test_tableWords :
    decodeTableWord 16 0x0000 = some .alloff ∧ decodeTableWord 16 0x1100 = some (.init true) ∧
      decodeTableWord 16 0x4000 = some (.dir false) ∧ decodeTableWord 16 0x90A5 = some (.sendb 0xA5#8) ∧
      decodeTableWord 16 0xA000 = some (.stream []) ∧ decodeTableWord 16 0xB014 = some (.print [] 20#8) ∧
      decodeTableWord 16 0xC000 = none := by decide

theorem test_tableWords_with_payload :
    decodeTableWord 64 0x800040000041A000 = some (.stream [[0x41#8]]) := by decide

theorem test_placed_word_runs_first :
    step (State.reset.withFetchWord 16 0x5000) = exec .curl State.reset := by rfl

/-! ### Commands: event list and end state, 95_test_vectors.md 2.3 to 2.6 -/

theorem test_sendb_events :
    events (.sendb 0xA5#8) = [.write .d0 true, .write .d1 false, .write .d2 true, .write .d3 false, .write .d4 false,
      .write .d5 true, .write .d6 false, .write .d7 true] := by decide
theorem test_sendb_from_unknown :
    (latchesAfter Pins.unknown (events (.sendb 0xA5#8))).db? = some 0xA5#8 ∧
      (latchesAfter Pins.unknown (events (.sendb 0xA5#8))).rs = .unknown := by decide

theorem test_alloff_from_high : latchesAfter highPins (events .alloff) = lowPins := by decide
theorem test_alloff_issues_all_from_low : writeCount (events .alloff) = 11 := by decide

theorem test_init_nocursor_from_high :
    (latchesAfter highPins (events (.init false))).db? = some 0x0C#8 ∧
      (latchesAfter highPins (events (.init false))).e = .level false := by decide
theorem test_init_cursor_events :
    events (.init true) = [.write .rs false, .write .rw false, .write .e false, .write .d0 false, .write .d1 false,
      .write .d2 false, .write .d3 false, .write .d4 false, .write .d5 false, .write .d6 false, .write .d7 false,
      .write .e true, .write .d0 true, .write .d1 true, .write .d2 true, .write .d3 true, .write .e false] := by decide

theorem test_clear_events :
    events .clear = [.write .rs false, .write .rw false, .write .e false, .write .d0 false, .write .d1 false,
      .write .d2 false, .write .d3 false, .write .d4 false, .write .d5 false, .write .d6 false, .write .d7 false,
      .write .e true, .write .d0 true, .write .e false] := by decide

theorem test_home_events :
    events .home = [.write .e true, .write .d0 false, .write .d1 true, .write .d2 false, .write .d3 false,
      .write .d4 false, .write .d5 false, .write .d6 false, .write .d7 false, .write .e false] := by decide
theorem test_home_from_unknown :
    latchesAfter Pins.unknown (events .home) = { onlyDb 0x02#8 with e := .level false } := by decide

theorem test_dir_events :
    events (.dir false) = [.write .e true, .write .d0 false, .write .d1 true, .write .d2 true, .write .d3 false,
      .write .d4 false, .write .d5 false, .write .d6 false, .write .d7 false, .write .e false] := by decide
theorem test_dir_rtl_byte : (latchesAfter lowPins (events (.dir true))).db? = some 0x04#8 := by decide

theorem test_curl_events :
    events .curl = [.write .d0 false, .write .d1 false, .write .d2 false, .write .d3 false, .write .d4 true,
      .write .d5 false, .write .d6 false, .write .d7 false, .write .e true, .sleep, .write .e false] := by decide
theorem test_curl_inherits_rs :
    (latchesAfter { lowPins with rs := .level true } (events .curl)).rs = .level true := by decide

theorem test_curr_events :
    events .curr = [.write .e true, .write .d0 false, .write .d1 false, .write .d2 true, .write .d3 false,
      .write .d4 true, .write .d5 false, .write .d6 false, .write .d7 false, .write .e false] := by decide

theorem test_shl_events :
    events .shl = [.write .d0 false, .write .d1 false, .write .d2 false, .write .d3 true, .write .d4 true,
      .write .d5 false, .write .d6 false, .write .d7 false, .write .e true, .sleep, .write .e false] := by decide

theorem test_shr_events :
    events .shr = [.write .e true, .write .d0 false, .write .d1 false, .write .d2 true, .write .d3 true,
      .write .d4 true, .write .d5 false, .write .d6 false, .write .d7 false, .write .e false] := by decide

theorem test_stream_A_events :
    events (.stream [[0x41#8]]) = [.write .rs false, .write .rw false, .write .e false, .write .d0 false, .write .d1 false,
      .write .d2 false, .write .d3 false, .write .d4 false, .write .d5 false, .write .d6 false, .write .d7 false,
      .write .rs true, .write .e true, .write .d0 true, .write .d1 false, .write .d2 false, .write .d3 false,
      .write .d4 false, .write .d5 false, .write .d6 true, .write .d7 false, .sleep, .write .e false,
      .write .rs false] := by decide
theorem test_stream_AB_C_same_as_ABC :
    events (.stream [[0x41#8, 0x42#8], [0x43#8]]) = events (.stream [[0x41#8, 0x42#8, 0x43#8]]) ∧
      writeCount (events (.stream [[0x41#8, 0x42#8, 0x43#8]])) = 43 := by decide

theorem test_print_pads :
    events (.print [[0x61#8, 0x62#8], [0x63#8, 0x64#8, 0x65#8]] 4#8) =
      events (.stream [[0x61#8, 0x62#8, 0x20#8, 0x20#8, 0x63#8, 0x64#8, 0x65#8, 0x20#8]]) := by decide
theorem test_print_does_not_cut :
    events (.print [[0x61#8, 0x62#8, 0x63#8]] 2#8) = events (.stream [[0x61#8, 0x62#8, 0x63#8]]) ∧
      writeCount (events (.print [[]] 3#8)) = 43 := by decide

/-! ### The sequencer, 95_test_vectors.md 2.7 and 2.8, one step each -/

theorem test_curl_first_write :
    step (runWith .curl 0 [some .ok]) =
      .next { runWith .curl 1 [] with trace := [.write .d0 false .ok] } := by rfl

theorem test_curl_sleep_loads_timer :
    step { sleepWith 0 with seq := .run } = .next { sleepWith 2 with trace := [.sleep] } := by rfl

theorem test_curl_last_tick : step (sleepWith 0) = .next { sleepWith 0 with seq := .run, upc := 10 } := by rfl

theorem test_sendb_error_at_d3 :
    step { runWith (.sendb 0xFF#8) 3 [some .err] with
        pins := { lowPins with d0 := .level true, d1 := .level true, d2 := .level true } } =
      .next { idleWith [] [] with
        pins := { lowPins with d0 := .level true, d1 := .level true, d2 := .level true, d3 := .unknown }
        status := ⟨false, .pinError, 3#4⟩
        trace := [.write .d3 true .err]
        results := [(.pinError, 3#4)] } := by rfl

theorem test_illegal_after_reset :
    step { State.reset with cmdPort := [some [0xC000#16]] } =
      .next { State.reset with status := ⟨false, .illegal, 0#4⟩, results := [(.illegal, 0#4)] } := by rfl

theorem test_reset_during_sleep :
    step { sleepWith 2 with rst := [true] } =
      .next { State.reset with params := ⟨some ⟨1080000, 1⟩, none⟩ } := by rfl

theorem test_busy_holds_packet_off :
    step { runWith .alloff 0 [] with cmdPort := [some [0x5000#16]] } =
      .next { runWith .alloff 0 [] with cmdPort := [some [0x5000#16]] } := by rfl

theorem test_settle_ticks :
    ceilTicks 2160 ⟨1000, 1⟩ = 2160 ∧ ceilTicks 2160 ⟨125, 2⟩ = 34560 ∧ ceilTicks 2160 ⟨7000, 1⟩ = 309 := by decide

theorem test_status_words :
    (Status.word ⟨true, .none, 0#4⟩) = 0x01#8 ∧ (Status.word ⟨false, .ok, 0#4⟩) = 0x02#8 ∧
      (Status.word ⟨false, .pinError, 10#4⟩) = 0x54#8 ∧ (Status.word ⟨false, .illegal, 0#4⟩) = 0x06#8 := by decide

theorem test_pin_out_of_unknown_is_open :
    pinOutAllows { State.reset with pins := { lowPins with e := .unknown } } 0x400#11 = true ∧
      pinOutAllows { State.reset with pins := { lowPins with e := .unknown } } 0x001#11 = false := by decide

theorem test_assembler :
    assemblePacket? "shift_left".toList = some [0x7000#16] ∧
      assemblePacket? "print_lines([\"a\"], 255)".toList = some [0xB0FF#16, 0x0061#16, 0x4000#16, 0x8000#16] ∧
      assemblePacket? "sendb 256".toList = none := by decide

/-! ### The invariant of the small states -/

theorem inv_idleWith (cmd : List (Option Packet)) (port : List (Option PinAnswer)) : Inv (idleWith cmd port) where
  busy_iff := ⟨fun h => (by cases h), fun h => absurd rfl h⟩
  res_busy := fun h => absurd rfl h
  errPin_zero := fun _ => rfl
  errPin_le := Nat.zero_le _
  tmr_zero := fun _ => rfl
  tmr_le := Nat.zero_le _
  idle_empty := by intro; exact ⟨rfl, rfl⟩
  ev_events := fun h => absurd rfl h
  upc_le := Nat.zero_le _
  sleep_event := by intro h; cases h
  rw_not_high := fun h => (by cases h)

theorem inv_runWith {i : Instr} {upc : Nat} (port : List (Option PinAnswer)) (h : upc ≤ (events i).length) :
    Inv (runWith i upc port) where
  busy_iff := ⟨fun _ h => (by cases h), fun _ => rfl⟩
  res_busy := fun _ => rfl
  errPin_zero := fun _ => rfl
  errPin_le := Nat.zero_le _
  tmr_zero := fun _ => rfl
  tmr_le := Nat.zero_le _
  idle_empty := by intro h; cases h
  ev_events := fun _ => ⟨i, rfl⟩
  upc_le := h
  sleep_event := by intro h; cases h
  rw_not_high := fun h => (by cases h)

theorem inv_sleepWith {tmr : Nat} (h : tmr ≤ 2) : Inv (sleepWith tmr) where
  busy_iff := ⟨fun _ h => (by cases h), fun _ => rfl⟩
  res_busy := fun _ => rfl
  errPin_zero := fun _ => rfl
  errPin_le := Nat.zero_le _
  tmr_zero := fun h => absurd rfl h
  tmr_le := by
    have : settleTicks (sleepWith tmr) = 2 := show ceilTicks 2160 ⟨1080000, 1⟩ = 2 by decide
    rw [this]; exact h
  idle_empty := by intro h; cases h
  ev_events := fun _ => ⟨.curl, rfl⟩
  upc_le := by show 9 ≤ 11; decide
  sleep_event := fun _ => rfl
  rw_not_high := fun h => (by cases h)

theorem rstLow_nil {s : State} (h : s.rst = []) : RstLow s := by simp [RstLow, h]

/-! ### Witnesses: a concrete state and operands for the hypotheses of each statement -/

theorem test_witness_ResetInputWinsAtAnyTime :
    rstNow { runWith .clear 13 [some .ok] with rst := [true] } = true ∧
      rstNow { sleepWith 1 with rst := [true, false] } = true := by decide

theorem test_witness_StepKeepsInv :
    (Inv (runWith .clear 13 [some .ok]) ∧ ∃ t, step (runWith .clear 13 [some .ok]) = .next t) ∧
      (Inv (sleepWith 2) ∧ ∃ t, step (sleepWith 2) = .next t) :=
  ⟨⟨inv_runWith _ (by decide), _, rfl⟩, ⟨inv_sleepWith (by decide), _, rfl⟩⟩

theorem test_witness_StepAlwaysAnswersNext : Inv (idleWith [some [0xC000#16]] []) ∧ Inv (runWith .curl 11 []) :=
  ⟨inv_idleWith _ _, inv_runWith _ (by decide)⟩

theorem test_witness_RwIsNeverDrivenHigh :
    Event.write .rw false ∈ events (.print [[0x61#8]] 2#8) ∧
      Inv (runWith .alloff 1 [some .ok]) ∧ ∃ t, step (runWith .alloff 1 [some .ok]) = .next t :=
  ⟨by decide, inv_runWith _ (by decide), _, rfl⟩

theorem test_witness_StepRunsDecodedCommand :
    rstNow (idleWith [some [0x90A5#16]] []) = false ∧ (idleWith [some [0x90A5#16]] []).seq = .idle ∧
      decode none [0x90A5#16] = .ok (.sendb 0xA5#8) := by decide

theorem test_witness_StepRunsEncodedCommand :
    rstNow (idleWith [some (encode (.stream [[0x41#8]]))] []) = false ∧
      (Instr.stream [[0x41#8]]).wellFormed (idleWith [] []).params.pktMax = true ∧
      (Instr.stream [[0x41#8]]).wellFormed (some 4) = true := by decide

theorem test_witness_StepRunsPlacedInstruction :
    (runWith .curl 3 []).params.pktMax = none ∧ decodeTableWord 16 0xB0FF = some (.print [] 255#8) := by decide

theorem test_witness_IllegalPacketChangesOnlyStatus :
    rstNow (idleWith [some [0xA000#16, 0x0048#16, 0x0141#16, 0x4000#16, 0x8000#16]] []) = false ∧
      decode none [0xA000#16, 0x0048#16, 0x0141#16, 0x4000#16, 0x8000#16] = .error .charTooLarge := by decide

theorem test_witness_BusyBlockHoldsPacketOff :
    Inv (runWith .curl 0 []) ∧ (runWith .curl 0 []).seq ≠ .idle ∧ ∃ t, step (runWith .curl 0 []) = .next t :=
  ⟨inv_runWith _ (by decide), by decide, _, rfl⟩

theorem test_witness_BusyBlockAcceptsNoCommand : (runWith .curl 0 []).seq ≠ .idle ∧ (sleepWith 1).seq ≠ .idle := by decide

theorem test_witness_IdleBlockWaits :
    rstNow (idleWith [] []) = false ∧ (idleWith [] []).cmdPort = [] ∧
      (idleWith [none, some [0x0000#16]] []).cmdPort = none :: [some [0x0000#16]] := by decide

theorem test_witness_PinWriteWaitsOrSetsOneLatch :
    (runWith .curl 10 []).seq = .run ∧ (runWith .curl 10 []).ev[10]? = some (.write .e false) ∧
      (runWith .curl 10 []).pinPort = [] ∧ (runWith .curl 10 [none]).pinPort = none :: [] ∧
      (runWith .curl 10 [some .ok]).pinPort = some .ok :: [] ∧ rstNow (runWith .curl 10 []) = false := by decide

theorem test_witness_PinErrorEndsTheCommand :
    rstNow (runWith .alloff 0 [some .err]) = false ∧ (runWith .alloff 0 [some .err]).seq = .run ∧
      (runWith .alloff 0 [some .err]).ev[0]? = some (.write .rs false) ∧
      (runWith .alloff 0 [some .err]).pinPort = some .err :: [] := by decide

theorem test_witness_EndOfEventListCompletes :
    Inv (runWith .curl 11 []) ∧ rstNow (runWith .curl 11 []) = false ∧ (runWith .curl 11 []).upc = 11 ∧
      (runWith .curl 11 []).ev.length = 11 :=
  ⟨inv_runWith _ (by decide), rfl, rfl, rfl⟩

/-- One state for each clause: reset, an illegal and a legal packet, the end of a command, an answer `err`, anything else. -/
theorem test_witness_StatusChangesExactlyThere :
    (rstNow { sleepWith 1 with rst := [true] } = true ∧ ∃ t, step { sleepWith 1 with rst := [true] } = .next t) ∧
      ((∃ t, step (idleWith [some [0xC000#16]] []) = .next t) ∧ decode none [0xC000#16] = .error .reservedOp) ∧
      ((∃ t, step (idleWith [some [0x0000#16]] []) = .next t) ∧ decode none [0x0000#16] = .ok .alloff) ∧
      ((∃ t, step (runWith .shr 10 []) = .next t) ∧ (runWith .shr 10 []).ev.length = 10) ∧
      ((∃ t, step (runWith .shr 9 [some .err]) = .next t) ∧ (runWith .shr 9 []).ev[9]? = some (.write .e false)) ∧
      ((∃ t, step (sleepWith 1) = .next t) ∧ (sleepWith 1).seq = .sleep) :=
  ⟨⟨rfl, _, rfl⟩, ⟨⟨_, rfl⟩, by decide⟩, ⟨⟨_, rfl⟩, by decide⟩, ⟨⟨_, rfl⟩, by decide⟩, ⟨⟨_, rfl⟩, by decide⟩,
    ⟨⟨_, rfl⟩, rfl⟩⟩

theorem test_witness_LatchChangesOnlyByItsWrite :
    (∃ t, step (runWith .curl 8 [some .ok]) = .next t ∧ t.pins.get .e ≠ (runWith .curl 8 [some .ok]).pins.get .e) ∧
      (∃ t, step (runWith .curl 8 [some .err]) = .next t ∧ t.pins.get .e ≠ (runWith .curl 8 [some .err]).pins.get .e) :=
  ⟨⟨_, rfl, by decide⟩, ⟨_, rfl, by decide⟩⟩

theorem test_witness_SettleIsReadOnly : ∃ t, step (runWith .curl 8 [some .ok]) = .next t := ⟨_, rfl⟩

theorem test_witness_TraceRecordsOnlyIssuedEvents :
    (∃ t, step (runWith .curl 8 [some .ok]) = .next t ∧ t.trace ≠ (runWith .curl 8 [some .ok]).trace) ∧
      (∃ t, step (runWith .curl 9 []) = .next t ∧ t.trace ≠ (runWith .curl 9 []).trace) :=
  ⟨⟨_, rfl, by decide⟩, ⟨_, rfl, by decide⟩⟩

theorem test_witness_UpcAdvancesByOne :
    (runWith .curl 8 [some .ok]).seq ≠ .idle ∧ ∃ t, step (runWith .curl 8 [some .ok]) = .next t ∧ t.seq ≠ .idle ∧ t.upc = 9 :=
  ⟨by decide, _, rfl, by decide, rfl⟩

theorem test_witness_CommandEndsOnlyInThreeWays :
    (∃ t, step { sleepWith 1 with rst := [true] } = .next t ∧ t.seq = .idle) ∧
      (∃ t, step (runWith .curl 11 []) = .next t ∧ t.seq = .idle) ∧
      (∃ t, step (runWith .curl 10 [some .err]) = .next t ∧ t.seq = .idle) :=
  ⟨⟨_, rfl, rfl⟩, ⟨_, rfl, rfl⟩, ⟨_, rfl, rfl⟩⟩

theorem test_witness_SleepLastsSettleTicks :
    RstLow { sleepWith 0 with seq := .run } ∧ (sleepWith 0).ev[9]? = some .sleep ∧ settleTicks (sleepWith 0) = 2 ∧
      RstLow (runWith .curl 9 []) ∧ settleTicks (runWith .curl 9 []) = 0 :=
  ⟨rstLow_nil rfl, by decide, by decide, rstLow_nil rfl, by decide⟩

theorem test_witness_SettleTicksCoverSettle :
    (sleepWith 0).params.tTick = some ⟨1080000, 1⟩ ∧ 0 < (Period.mk 1080000 1).num := by decide

/-- The hypotheses of a contract's `completes` and `aborts`, for any event list. -/
theorem test_witness_contract (es before : List Event) :
    (Inv (idleWith [] (answersOk (writeCount es) ++ [])) ∧ RstLow (idleWith [] (answersOk (writeCount es) ++ []))) ∧
      (Inv (idleWith [] (answersOk (writeCount before) ++ some .err :: [])) ∧
        RstLow (idleWith [] (answersOk (writeCount before) ++ some .err :: []))) :=
  ⟨⟨inv_idleWith _ _, rstLow_nil rfl⟩, ⟨inv_idleWith _ _, rstLow_nil rfl⟩⟩

/-- Every command's list has a first and a last event to split it at; here ALLOFF and STREAM. -/
theorem test_witness_contract_splits :
    (events .alloff = [] ++ .write .rs false :: (events .alloff).tail) ∧
      (events .alloff = (events .alloff).dropLast ++ .write .d7 false :: []) ∧
      (events (.stream [[0x41#8]]) = (events (.stream [[0x41#8]])).dropLast ++ .write .rs false :: []) := by decide

theorem test_witness_AnswerDelaysDoNotChangeOutcome :
    (idleWith [] (List.replicate 7 (some .ok) ++ [none, none, some .ok] ++ [])).pinPort =
        (List.replicate 7 (some PinAnswer.ok) ++ [none, none, some .ok]) ++ [] ∧
      (List.replicate 7 (some PinAnswer.ok) ++ [none, none, some PinAnswer.ok]).filterMap id =
        List.replicate (writeCount (events (.sendb 0#8))) .ok ∧
      (List.replicate 7 (some PinAnswer.ok) ++ [none, none, some PinAnswer.ok]).getLast? ≠ some none ∧
      Inv (idleWith [] (List.replicate 7 (some .ok) ++ [none, none, some .ok] ++ [])) :=
  ⟨rfl, by decide, by decide, inv_idleWith _ _⟩

theorem test_witness_StreamAndPrintCornerCases : (3#8).toNat ≤ [0x61#8, 0x62#8, 0x63#8].length := by decide

theorem test_witness_PadNeverCuts :
    (3#8).toNat ≤ ([0x61#8, 0x62#8, 0x63#8] : CharString).length ∧ pad 3#8 [0x61#8, 0x62#8] = [0x61#8, 0x62#8, 0x20#8] := by
  decide

theorem test_witness_EventCountsOfEveryCommand :
    8 = ([[0x61#8, 0x62#8], [0x63#8, 0x64#8, 0x65#8]].map fun s : CharString => max s.length (4#8).toNat).sum ∧
      5 = ([[0x61#8, 0x62#8], [0x63#8, 0x64#8, 0x65#8]].map (List.length (α := Byte))).sum := by decide

theorem test_witness_SleepStandsBeforeFallOfE :
    events .curl = (events .curl).take 9 ++ .sleep :: [.write .e false] := by decide

theorem test_witness_DecodeAndEncodeAgree :
    (Instr.print [[0x48#8, 0x69#8]] 20#8).wellFormed (some 5) = true ∧
      decode (some 5) [0xB014#16, 0x0048#16, 0x0069#16, 0x4000#16, 0x8000#16] = .ok (.print [[0x48#8, 0x69#8]] 20#8) := by
  decide

theorem test_witness_IllegalExactlyByTheConditions :
    IllegalPacket none [0xC000#16] ∧ rstNow (idleWith [some [0xC000#16]] []) = false ∧
      IllegalPacket (some 0) [0x0000#16] ∧ IllegalPacket none [] :=
  ⟨.inr (.inr ⟨0xC000#16, [], rfl, .inl (.inl (by decide))⟩), rfl, .inr (.inl ⟨0, rfl, by decide⟩), .inl rfl⟩

theorem test_witness_PacketLengthIsDecodable :
    decode none [0xA000#16, 0x0041#16, 0x4000#16, 0x8000#16] = .ok (.stream [[0x41#8]]) ∧
      decode none [0x5000#16] = .ok .curl ∧ ¬ StringOp 0x5000#16 := by
  refine ⟨by decide, by decide, ?_⟩
  rintro (h | h) <;> revert h <;> decide

theorem test_witness_StatusRegisterLayout :
    Inv (runWith .curl 0 []) ∧ (runWith .curl 0 []).status.res ≠ .pinError := ⟨inv_runWith _ (by decide), by decide⟩

theorem test_witness_PortsFollowTheState :
    Inv (runWith .curl 8 []) ∧ (runWith .curl 8 []).seq = .run ∧ (runWith .curl 8 []).ev[8]? = some (.write .e true) ∧
      pinReq (runWith .curl 9 []) = false :=
  ⟨inv_runWith _ (by decide), rfl, by decide, by decide⟩

end Sys2Proof.Tests
end

section
/-! SUPPORT. What each operation and each step can do to the observer's record (00_scope.md R6). -/

namespace Sys2Proof.Proofs

open Sys2Proof.Machine Sys2Proof.Safety Sys2Proof.Laws

@[simp] theorem sleepTick_trace (s : State) : (sleepTick s).trace = s.trace := by
  unfold sleepTick
  split
  · exact advance_trace _
  · rfl

/-- `PinWrite` records nothing while it waits; once answered it records the write with that answer and uses the answer up. -/
theorem pinWrite_trace_cases (p : Pin) (v : Level) (s : State) :
    (pinWrite p v s).trace = s.trace ∨
    ∃ a port, s.pinPort = some a :: port ∧ (pinWrite p v s).trace = s.trace ++ [.write p v a] ∧
      (pinWrite p v s).pinPort = port := by
  obtain ⟨_, hw⟩ | ⟨port, _, hw⟩ | ⟨port, hport, hw⟩ | ⟨port, hport, hw⟩ := pinWrite_cases p v s
  · exact .inl (by rw [hw])
  · exact .inl (by rw [hw])
  · exact .inr ⟨.ok, port, hport, by simp [hw]⟩
  · exact .inr ⟨.err, port, hport, by simp [hw]⟩

/-- Settles O20. Of the cases of `step_cases` only `pinWrite` and `startSleep` touch the record, both in mode RUN with `rst` low;
every other case contradicts `t.trace ≠ s.trace`. -/
theorem traceRecordsOnlyIssuedEvents : Obligations.TraceRecordsOnlyIssuedEvents := by
  unfold Obligations.TraceRecordsOnlyIssuedEvents
  intro s t hstep hne
  obtain ⟨_, rfl⟩ | ⟨_, _, hidle⟩ | ⟨hlow, hrun, hrunning⟩ | ⟨_, _, rfl⟩ := step_cases hstep
  case inl => simp at hne
  case inr.inl =>
    obtain ⟨_, rfl⟩ | ⟨_, _, rfl⟩ | ⟨_, _, _, _, _, rfl⟩ | ⟨_, _, _, _, _, rfl⟩ := hidle <;> simp at hne
  case inr.inr.inl =>
    refine ⟨hlow, hrun, ?_⟩
    obtain ⟨_, rfl⟩ | ⟨p, v, hev, rfl⟩ | ⟨hev, rfl⟩ := hrunning
    · simp at hne
    · obtain hwait | ⟨a, port, hport, htrace, hrest⟩ := pinWrite_trace_cases p v (tickRst s)
      · exact absurd hwait hne
      · exact .inl ⟨p, v, a, port, hev, hport, htrace, hrest⟩
    · exact .inr ⟨hev, startSleep_trace _, startSleep_pinPort _⟩
  case inr.inr.inr => simp at hne

end Sys2Proof.Proofs
end

section
/-! SUPPORT. What the sleep and the store primitive keep, and that every operation keeps the invariant
(10_state.md sections 2 to 5). -/

namespace Sys2Proof.Proofs

open Sys2Proof.Machine Sys2Proof.Safety Sys2Proof.Laws

/-! ### The settle timer and the store primitive -/

/-- What a tick can do: end the sleep, or count down. -/
theorem sleepTick_cases (s : State) :
    (s.tmr = 0 ∧ sleepTick s = advance { s with seq := .run }) ∨
    (s.tmr ≠ 0 ∧ sleepTick s = { s with tmr := s.tmr - 1 }) := by
  by_cases h : s.tmr = 0 <;> simp [sleepTick, h]

@[simp] theorem sleepTick_pins (s : State) : (sleepTick s).pins = s.pins := by
  obtain ⟨_, h⟩ | ⟨_, h⟩ := sleepTick_cases s <;> simp [h]

@[simp] theorem sleepTick_settle (s : State) : (sleepTick s).settle = s.settle := by
  obtain ⟨_, h⟩ | ⟨_, h⟩ := sleepTick_cases s <;> simp [h]

@[simp] theorem sleepTick_params (s : State) : (sleepTick s).params = s.params := by
  obtain ⟨_, h⟩ | ⟨_, h⟩ := sleepTick_cases s <;> simp [h]

@[simp] theorem sleepTick_status (s : State) : (sleepTick s).status = s.status := by
  obtain ⟨_, h⟩ | ⟨_, h⟩ := sleepTick_cases s <;> simp [h]

@[simp] theorem sleepTick_ev (s : State) : (sleepTick s).ev = s.ev := by
  obtain ⟨_, h⟩ | ⟨_, h⟩ := sleepTick_cases s <;> simp [h]

@[simp] theorem pinWrite_settle (p : Pin) (v : Level) (s : State) : (pinWrite p v s).settle = s.settle := by
  obtain ⟨_, h⟩ | ⟨_, _, h⟩ | ⟨_, _, h⟩ | ⟨_, _, h⟩ := pinWrite_cases p v s <;> rw [h] <;> rfl

@[simp] theorem pinWrite_params (p : Pin) (v : Level) (s : State) : (pinWrite p v s).params = s.params := by
  obtain ⟨_, h⟩ | ⟨_, _, h⟩ | ⟨_, _, h⟩ | ⟨_, _, h⟩ := pinWrite_cases p v s <;> rw [h] <;> rfl

/-! ### Latch RW and the pin indices -/

/-- A latch that does not hold 1 holds 0 or `U`. -/
theorem latch_low_or_unknown {l : Latch} (h : l ≠ .level true) : l = .level false ∨ l = .unknown := by
  rcases l with (_ | _) | _
  · exact .inl rfl
  · exact absurd rfl h
  · exact .inr rfl

/-- ERRPIN of a failed write is a pin index. -/
theorem index_le (p : Pin) : p.index.toNat ≤ 10 := by cases p <;> decide

/-- RW does not become 1 by setting some latch, if RW itself is not set to 1 (10_state.md R12). -/
theorem set_rw_ne_high {pins : Pins} {p : Pin} {l : Latch} (h : pins.rw ≠ .level true)
    (hl : p = .rw → l ≠ .level true) : (pins.set p l).rw ≠ .level true := by
  cases p
  case rw => exact hl rfl
  all_goals exact h

/-! ### An idle, a running and a sleeping block with the invariant -/

/-- The invariant of a block that is idle with EV empty. -/
theorem inv_of_idle {s : State} (hseq : s.seq = .idle) (hbusy : s.status.busy = false)
    (herr : s.status.res ≠ .pinError → s.status.errPin = 0#4) (hle : s.status.errPin.toNat ≤ 10)
    (htmr : s.tmr = 0) (hev : s.ev = []) (hupc : s.upc = 0) (hrw : s.pins.rw ≠ .level true) : Inv s where
  busy_iff := by simp [hseq, hbusy]
  res_busy h := absurd hseq h
  errPin_zero := herr
  errPin_le := hle
  tmr_zero _ := htmr
  tmr_le := by simp [htmr]
  idle_empty _ := ⟨hev, hupc⟩
  ev_events h := absurd hseq h
  upc_le := by simp [hupc]
  sleep_event h := by simp [hseq] at h
  rw_not_high := hrw

/-- The invariant of a block with a command in progress. -/
theorem inv_of_busy {s : State} {i : Instr} (hseq : s.seq ≠ .idle) (hstatus : s.status = Status.accepted)
    (htmr : s.seq ≠ .sleep → s.tmr = 0) (hticks : s.tmr ≤ settleTicks s) (hev : s.ev = events i)
    (hupc : s.upc ≤ s.ev.length) (hsleep : s.seq = .sleep → s.ev[s.upc]? = some .sleep)
    (hrw : s.pins.rw ≠ .level true) : Inv s where
  busy_iff := by simp [hstatus, Status.accepted, hseq]
  res_busy _ := by rw [hstatus]; rfl
  errPin_zero _ := by rw [hstatus]; rfl
  errPin_le := by simp [hstatus, Status.accepted]
  tmr_zero := htmr
  tmr_le := hticks
  idle_empty h := absurd h hseq
  ev_events _ := ⟨i, hev⟩
  upc_le := hupc
  sleep_event := hsleep
  rw_not_high := hrw

/-- STATUS of a block with a command in progress is 1/NONE/0. -/
theorem status_of_busy {s : State} (h : Inv s) (hs : s.seq ≠ .idle) : s.status = Status.accepted := by
  have hbusy := h.busy_iff.mpr hs
  have hres := h.res_busy hs
  have herr := h.errPin_zero (by simp [hres])
  rcases hst : s.status with ⟨b, r, e⟩
  simp_all [Status.accepted]

/-! ### Every operation keeps the invariant -/

theorem inv_tickRst {s : State} (h : Inv s) : Inv (tickRst s) := { h with }

theorem inv_cmdPort {s : State} (h : Inv s) (port : List (Option Packet)) : Inv { s with cmdPort := port } := { h with }

theorem inv_pinPort {s : State} (h : Inv s) (port : List (Option PinAnswer)) : Inv { s with pinPort := port } := { h with }

theorem inv_resetBlock (s : State) : Inv (resetBlock s) :=
  inv_of_idle rfl rfl (fun _ => rfl) (Nat.zero_le _) rfl rfl rfl nofun

theorem inv_raiseIllegal {s : State} (h : Inv s) (hs : s.seq = .idle) : Inv (raiseIllegal s) where
  __ := h
  res_busy hne := absurd hs hne
  errPin_zero _ := rfl
  errPin_le := Nat.zero_le _

theorem inv_accepted {s : State} (h : Inv s) (hs : s.seq = .idle) (i : Instr) : Inv (accepted s (events i)) :=
  have htmr : s.tmr = 0 := h.tmr_zero (by simp [hs])
  inv_of_busy (i := i) nofun rfl (fun _ => htmr) h.tmr_le rfl (Nat.zero_le _) nofun h.rw_not_high

theorem inv_complete {s : State} (h : Inv s) (hs : s.seq = .run) : Inv (complete s) :=
  have herr : s.status.errPin = 0#4 := by rw [status_of_busy h (by simp [hs])]; rfl
  inv_of_idle rfl rfl (fun _ => herr) h.errPin_le rfl rfl rfl h.rw_not_high

theorem inv_raisePinError {s : State} (p : Pin) (hrw : s.pins.rw ≠ .level true) : Inv (raisePinError p s) :=
  inv_of_idle rfl rfl (fun hne => absurd rfl hne) (index_le p) rfl rfl rfl hrw

/-- A write to RW of a command in progress is to 0 (10_state.md R12). -/
theorem write_rw_low {s : State} {p : Pin} {v : Level} (h : Inv s) (hs : s.seq ≠ .idle)
    (he : s.ev[s.upc]? = some (.write p v)) (hp : p = .rw) : v = false := by
  obtain ⟨i, hi⟩ := h.ev_events hs
  subst hp
  exact events_rw_low i v (hi ▸ List.mem_of_getElem? he)

/-- The event in progress is within EV, so UPC may advance. -/
theorem upc_lt_of_event {s : State} {e : Event} (he : s.ev[s.upc]? = some e) : s.upc < s.ev.length :=
  (List.getElem?_eq_some_iff.mp he).1

theorem inv_pinWrite {s : State} {p : Pin} {v : Level} (h : Inv s) (hs : s.seq = .run)
    (he : s.ev[s.upc]? = some (.write p v)) : Inv (pinWrite p v s) := by
  obtain ⟨_, hw⟩ | ⟨port, _, hw⟩ | ⟨port, _, hw⟩ | ⟨port, _, hw⟩ := pinWrite_cases p v s <;> rw [hw]
  case inl => exact h
  case inr.inl => exact inv_pinPort h port
  case inr.inr.inl =>
    have hlow := write_rw_low h (by simp [hs]) he
    exact { h with
      idle_empty := fun hidle => by simp [hs] at hidle
      upc_le := upc_lt_of_event he
      sleep_event := fun hsleep => by simp [hs] at hsleep
      rw_not_high := set_rw_ne_high h.rw_not_high fun hp => by simp [hlow hp] }
  case inr.inr.inr => exact inv_raisePinError p (set_rw_ne_high h.rw_not_high fun _ => nofun)

theorem inv_startSleep {s : State} (h : Inv s) (hs : s.seq = .run) (he : s.ev[s.upc]? = some .sleep) :
    Inv (startSleep s) := by
  have hne : s.seq ≠ .idle := by simp [hs]
  obtain ⟨i, hi⟩ := h.ev_events hne
  have hst := status_of_busy h hne
  exact inv_of_busy (i := i) nofun hst (fun hc => absurd rfl hc) (Nat.le_refl _) hi h.upc_le
    (fun _ => he) h.rw_not_high

theorem inv_sleepTick {s : State} (h : Inv s) (hs : s.seq = .sleep) : Inv (sleepTick s) := by
  have hne : s.seq ≠ .idle := by simp [hs]
  obtain ⟨i, hi⟩ := h.ev_events hne
  have hst := status_of_busy h hne
  obtain ⟨htmr, ht⟩ | ⟨_, ht⟩ := sleepTick_cases s <;> rw [ht]
  · exact inv_of_busy (i := i) nofun hst (fun _ => htmr) h.tmr_le hi
      (upc_lt_of_event (h.sleep_event hs)) nofun h.rw_not_high
  · exact { h with
      tmr_zero := fun hc => absurd hs hc
      tmr_le := (Nat.sub_le _ _).trans h.tmr_le }

/-- Settles O4. The case split is that of `step_cases`; each case is the lemma that its operation keeps the invariant. -/
theorem stepKeepsInv : Obligations.StepKeepsInv := by
  unfold Obligations.StepKeepsInv
  intro s t hinv hstep
  have h := inv_tickRst hinv
  obtain ⟨_, rfl⟩ | ⟨_, hs, hidle⟩ | ⟨_, hs, hrun⟩ | ⟨_, hs, rfl⟩ := step_cases hstep
  case inl => exact inv_resetBlock _
  case inr.inl =>
    obtain ⟨_, rfl⟩ | ⟨port, _, rfl⟩ | ⟨_, port, _, _, _, rfl⟩ | ⟨_, port, i, _, _, rfl⟩ := hidle
    · exact h
    · exact inv_cmdPort h port
    · exact inv_raiseIllegal (inv_cmdPort h port) hs
    · exact inv_accepted (inv_cmdPort h port) hs i
  case inr.inr.inl =>
    obtain ⟨_, rfl⟩ | ⟨p, v, he, rfl⟩ | ⟨he, rfl⟩ := hrun
    · exact inv_complete h hs
    · exact inv_pinWrite h hs he
    · exact inv_startSleep h hs he
  case inr.inr.inr => exact inv_sleepTick h hs

end Sys2Proof.Proofs
end

section
/-! SUPPORT. `decode` reads back what `encode` writes (30_encoding.md R56, R60). -/

namespace Sys2Proof.Proofs

open Sys2Proof.Machine Sys2Proof.Safety Sys2Proof.Laws

/-- A packet has the length that `packetLength` says, for every command. -/
theorem encode_length (i : Instr) : (encode i).length = i.packetLength := by
  cases i
  case stream strings => exact EncodeLength.stream strings
  case print strings w => exact EncodeLength.print strings w
  all_goals rfl

/-- The payload scan reads back the strings of a payload, after those already closed. -/
theorem decodePayload_encodePayload (strs strings : List CharString) :
    decodePayload false [] strs (encodePayload strings) = .ok (strs ++ strings) := by
  induction strings generalizing strs with
  | nil => simp [encodePayload, decodePayload]
  | cons s rest ih =>
    rw [encodePayload, decodePayload_chars, decodePayload]
    simp [ih]

/-- A command word that the encoder writes passes every field test, so `decode` goes on to the words after it. -/
theorem decode_commandWord_cons {pktMax : Option Nat} {op : BitVec 4} {f : Bool} {imm : Byte} {ts : List Word}
    (hlen : withinPktMax pktMax (ts.length + 1) = true) (hop : ¬ 0xC#4 ≤ op)
    (hf : f = true → op = 0x1#4 ∨ op = 0x4#4) (himm : imm ≠ 0#8 → op = 0x9#4 ∨ op = 0xB#4) :
    decode pktMax (commandWord op f imm :: ts) = decodeBody (commandWord op f imm) ts := by
  have hflag : ¬ (f = true ∧ op ≠ 0x1#4 ∧ op ≠ 0x4#4) := by tauto
  have himm' : ¬ (imm ≠ 0#8 ∧ op ≠ 0x9#4 ∧ op ≠ 0xB#4) := by tauto
  simp only [decode, hlen, commandWord_zField, commandWord_opField, commandWord_fField, commandWord_immField, hop,
    hflag, himm']
  simp

/-- A command without payload is read from its command word alone. -/
theorem decode_commandWord_short {pktMax : Option Nat} {op : BitVec 4} {f : Bool} {imm : Byte}
    (hlen : withinPktMax pktMax 1 = true) (hop : op < 0xA#4) (hf : f = true → op = 0x1#4 ∨ op = 0x4#4)
    (himm : imm ≠ 0#8 → op = 0x9#4) : decode pktMax [commandWord op f imm] = decodeShort op f imm := by
  have hshort : hasPayload op = false := by clear hf himm; revert op; decide
  rw [decode_commandWord_cons hlen (by bv_omega) hf fun h => .inl (himm h)]
  simp [decodeBody, hshort]

/-- STREAM is read from its command word and payload. -/
theorem decodeBody_stream (strings : List CharString) :
    decodeBody (commandWord 0xA#4 false 0#8) (encodePayload strings) = .ok (.stream strings) := by
  simp [decodeBody, hasPayload, decodePayload_encodePayload]

/-- PRINT is read from its command word and payload. -/
theorem decodeBody_print (strings : List CharString) (w : Byte) :
    decodeBody (commandWord 0xB#4 false w) (encodePayload strings) = .ok (.print strings w) := by
  simp [decodeBody, hasPayload, decodePayload_encodePayload]

/-- Decoding the packet of a well-formed command gives the command. -/
theorem decode_encode {pktMax : Option Nat} {i : Instr} (h : i.wellFormed pktMax = true) :
    decode pktMax (encode i) = .ok i := by
  rw [Instr.wellFormed, ← encode_length] at h
  cases i
  case stream strings =>
    exact (decode_commandWord_cons h (by decide) (by decide) (by decide)).trans (decodeBody_stream strings)
  case print strings w =>
    exact (decode_commandWord_cons h (by decide) (by decide) (by simp)).trans (decodeBody_print strings w)
  case init f => exact decode_commandWord_short h (by decide) (by simp) (by decide)
  case dir f => exact decode_commandWord_short h (by decide) (by simp) (by decide)
  case sendb v => exact decode_commandWord_short h (by decide) (by decide) (by simp)
  all_goals exact decode_commandWord_short h (by decide) (by decide) (by decide)

end Sys2Proof.Proofs
end

section
/-! SUPPORT. How the sequencer runs through the events of a command, and that every command keeps its contract
(10_state.md R17, 60_exceptions.md R81, R89). -/

namespace Sys2Proof.Proofs

open Sys2Proof.Machine Sys2Proof.Safety Sys2Proof.Laws

/-! ### Runs through a sleep -/

/-- A sleeping block with `TMR = k` is running again `k + 1` steps later, at the next event. -/
theorem runSteps_ticks {s : State} {k : Nat} (hlow : RstLow s) (hs : s.seq = .sleep) (hk : s.tmr = k) :
    runSteps (k + 1) s = .next { s with rst := s.rst.drop (k + 1), tmr := 0, seq := .run, upc := s.upc + 1 } := by
  induction k generalizing s with
  | zero =>
    have ht : sleepTick (tickRst s) = advance { tickRst s with seq := .run } := by simp [sleepTick, hk]
    rw [runSteps_succ (step_sleep (rstLow_now hlow) hs), runSteps_zero, ht, List.drop_one, ← hk]
    rfl
  | succ k ih =>
    have ht : sleepTick (tickRst s) = { tickRst s with tmr := k } := by simp [sleepTick, hk]
    rw [runSteps_succ (step_sleep (rstLow_now hlow) hs), ht]
    refine (ih (s := { tickRst s with tmr := k }) (rstLow_tail hlow rfl) hs rfl).trans ?_
    simp

/-- A running block at a sleep is past it `SETTLE_TICKS + 2` steps later (60_exceptions.md R89). -/
theorem runSteps_sleep {s : State} (hlow : RstLow s) (hs : s.seq = .run) (he : s.ev[s.upc]? = some .sleep) :
    runSteps (settleTicks s + 2) s = .next { s with
      rst := s.rst.drop (settleTicks s + 2), tmr := 0, upc := s.upc + 1, trace := s.trace ++ [.sleep] } := by
  rw [runSteps_succ (step_run_sleep (rstLow_now hlow) hs he)]
  refine (runSteps_ticks (s := startSleep (tickRst s)) (rstLow_tail hlow rfl) rfl rfl).trans ?_
  have hticks : settleTicks (tickRst s) = settleTicks s := rfl
  simp [hs, hticks]

/-! ### Runs through a list of events -/

/-- The running block `s` after `n` steps in which the next events `es` completed, every write answered `ok`, and the pin
port used up all answers but `port`. -/
def afterEvents (s : State) (n : Nat) (es : List Event) (port : List (Option PinAnswer)) : State :=
  { s with
    pins := latchesAfter s.pins es
    upc := s.upc + es.length
    rst := s.rst.drop n
    pinPort := port
    trace := s.trace ++ okTrace es }

/-- Running on through a second list of events is running through both. -/
theorem afterEvents_afterEvents (s : State) (m n : Nat) (a b : List Event) (q port : List (Option PinAnswer)) :
    afterEvents (afterEvents s m a q) n b port = afterEvents s (m + n) (a ++ b) port := by
  simp [afterEvents, Nat.add_assoc]

/-- A write answered `ok` is one step. -/
theorem step_write_ok {s : State} {p : Pin} {v : Level} {port : List (Option PinAnswer)} (hlow : rstNow s = false)
    (hs : s.seq = .run) (he : s.ev[s.upc]? = some (.write p v)) (hport : s.pinPort = some .ok :: port) :
    step s = .next (afterEvents s 1 [.write p v] port) := by
  rw [step_run_write hlow hs he, pinWrite, tickRst_pinPort, hport, afterEvents, List.drop_one]
  rfl

/-- One event runs to its end when a write is answered `ok`. -/
theorem runSteps_event {s : State} {e : Event} {port : List (Option PinAnswer)} (hlow : RstLow s)
    (hs : s.seq = .run) (htmr : s.tmr = 0) (he : s.ev[s.upc]? = some e)
    (hport : s.pinPort = answersOk (writeCount [e]) ++ port) :
    runSteps (stepCount (settleTicks s) [e]) s =
      .next (afterEvents s (stepCount (settleTicks s) [e]) [e] port) := by
  cases e
  case write p v => exact runSteps_succ (step_write_ok (rstLow_now hlow) hs he hport) 0
  case sleep =>
    have hport' : port = s.pinPort := hport.symm
    rw [hport', stepCount, stepCount, Nat.zero_add, runSteps_sleep hlow hs he, ← htmr]
    rfl

/-- The head of what is left of EV is the event in progress, and the rest is left after it. -/
theorem event_of_prefix {e : Event} {es evs : List Event} {n : Nat} (h : e :: es <+: evs.drop n) :
    evs[n]? = some e ∧ es <+: evs.drop (n + 1) := by
  obtain ⟨rest, h⟩ := h
  refine ⟨?_, rest, ?_⟩
  · rw [← List.head?_drop, ← h]
    rfl
  · rw [← List.tail_drop, ← h]
    rfl

/-- The events at the head of what is left of EV run to their end when every write is answered `ok`. -/
theorem runSteps_events {s : State} {es : List Event} {port : List (Option PinAnswer)} (hlow : RstLow s)
    (hs : s.seq = .run) (htmr : s.tmr = 0) (hev : es <+: s.ev.drop s.upc)
    (hport : s.pinPort = answersOk (writeCount es) ++ port) :
    runSteps (stepCount (settleTicks s) es) s = .next (afterEvents s (stepCount (settleTicks s) es) es port) := by
  induction es generalizing s with
  | nil =>
    obtain rfl : s.pinPort = port := hport
    simp [stepCount, afterEvents, latchesAfter, okTrace]
  | cons e es ih =>
    obtain ⟨he, hrest⟩ := event_of_prefix hev
    rw [← List.singleton_append, writeCount_append, answersOk, List.replicate_add, List.append_assoc] at hport
    rw [← List.singleton_append, stepCount_append, runSteps_add (runSteps_event hlow hs htmr he hport)]
    refine (ih (s := afterEvents s _ [e] _) (rstLow_drop _ hlow rfl) hs htmr hrest rfl).trans ?_
    rw [afterEvents_afterEvents]
    rfl

/-! ### The end of a command -/

/-- The idle block of the invariant is in the idle mode that `toIdle` gives. -/
theorem toIdle_eq_self {s : State} (h : Inv s) (hs : s.seq = .idle) : toIdle s = s := by
  obtain ⟨hev, hupc⟩ := h.idle_empty hs
  have htmr := h.tmr_zero (by simp [hs])
  cases s
  simp_all [toIdle]

/-- An accepted command runs through the events at the head of its list. -/
theorem runSteps_accepted {s : State} {es before : List Event} {port : List (Option PinAnswer)} (hinv : Inv s)
    (hs : s.seq = .idle) (hlow : RstLow s) (hpre : before <+: es)
    (hport : s.pinPort = answersOk (writeCount before) ++ port) :
    runSteps (stepCount (settleTicks s) before) (accepted s es) =
      .next (afterEvents (accepted s es) (stepCount (settleTicks s) before) before port) :=
  runSteps_events (s := accepted s es) hlow rfl (hinv.tmr_zero (by simp [hs])) hpre hport

/-- Once its events have run an accepted command completes. -/
theorem step_completes {s : State} {n : Nat} {es : List Event} {port : List (Option PinAnswer)} (hinv : Inv s)
    (hs : s.seq = .idle) (hlow : RstLow s) :
    step (afterEvents (accepted s es) n es port) = .next (completed s (n + 1) es port) := by
  have hlow' : RstLow (afterEvents (accepted s es) n es port) := rstLow_drop n hlow rfl
  rw [step_run_end (rstLow_now hlow') rfl (Nat.zero_add _), completed, ← List.tail_drop, ← toIdle_eq_self hinv hs]
  rfl

/-- A write answered `err` cuts an accepted command short (60_exceptions.md R79, R81). -/
theorem step_aborts {s : State} {n : Nat} {before after : List Event} {p : Pin} {v : Level}
    {port : List (Option PinAnswer)} (hinv : Inv s) (hs : s.seq = .idle) (hlow : RstLow s) :
    step (afterEvents (accepted s (before ++ .write p v :: after)) n before (some .err :: port)) =
      .next (aborted s (n + 1) before p v port) := by
  have hlow' : RstLow (afterEvents (accepted s (before ++ .write p v :: after)) n before (some .err :: port)) :=
    rstLow_drop n hlow rfl
  have he : (before ++ .write p v :: after)[0 + before.length]? = some (.write p v) := by simp
  rw [step_run_write (rstLow_now hlow') rfl he, aborted, ← List.tail_drop, ← toIdle_eq_self hinv hs]
  rfl

/-- Settles O25. The packet decodes by `decode_encode`; the runs are `runSteps_events` over the events before the end, then
the one step that completes or aborts. -/
theorem everyCommandKeepsItsContract : Obligations.EveryCommandKeepsItsContract := by
  unfold Obligations.EveryCommandKeepsItsContract
  intro i
  refine ⟨rfl, decode_encode rfl, fun s hs => exec_idle i hs, fun _ => rfl, ?completes, ?aborts⟩
  case completes =>
    intro s port hinv hs hlow hport
    refine ⟨_, exec_idle i hs, ?_⟩
    rw [runSteps_add (runSteps_accepted hinv hs hlow (List.prefix_refl _) hport)]
    exact runSteps_succ (step_completes hinv hs hlow) 0
  case aborts =>
    intro s before after p v port hinv hs hlow hes hport
    refine ⟨_, exec_idle i hs, ?_⟩
    rw [hes, runSteps_add (runSteps_accepted hinv hs hlow (List.prefix_append _ _) hport)]
    exact runSteps_succ (step_aborts hinv hs hlow) 0

end Sys2Proof.Proofs
end

section
/-! SUPPORT. Which pins the framings write: RS and RW in the event lists (10_state.md R12, R24). -/

namespace Sys2Proof.Proofs

open Sys2Proof.Machine Sys2Proof.Safety Sys2Proof.Laws

/-- A bus byte is written to data pins only. -/
theorem mem_dataPins_of_busWrites {p : Pin} {v : Byte} {l : Level} (h : .write p l ∈ busWrites v) : p ∈ dataPins := by
  simp only [busWrites, List.mem_cons, Event.write.injEq, List.not_mem_nil, or_false] at h
  simp only [dataPins, List.mem_cons, List.not_mem_nil, or_false]
  tauto

/-- Framing EB writes no control line but E. -/
theorem pin_of_framingEB {p : Pin} {v : Byte} {l : Level} (h : .write p l ∈ framingEB v) : p ∈ dataPins ∨ p = .e := by
  simp only [framingEB, eRise, eFall, List.mem_append, List.mem_cons, List.not_mem_nil, or_false,
    Event.write.injEq] at h
  obtain (⟨hp, _⟩ | h) | ⟨hp, _⟩ := h
  · exact .inr hp
  · exact .inl (mem_dataPins_of_busWrites h)
  · exact .inr hp

/-- Framing BES writes no control line but E. -/
theorem pin_of_framingBES {p : Pin} {v : Byte} {l : Level} (h : .write p l ∈ framingBES v) :
    p ∈ dataPins ∨ p = .e := by
  simp only [framingBES, eRise, eFall, List.mem_append, List.mem_cons, List.not_mem_nil, or_false,
    Event.write.injEq, reduceCtorEq, false_or] at h
  obtain h | ⟨hp, _⟩ | ⟨hp, _⟩ := h
  · exact .inl (mem_dataPins_of_busWrites h)
  · exact .inr hp
  · exact .inr hp

/-- The commands without ALLOFF at their head (10_state.md R24) write no control line but E. -/
theorem pin_of_short_events {i : Instr} {f : Bool} {v : Byte} {p : Pin} {l : Level}
    (hi : i ∈ [Instr.sendb v, .home, .dir f, .curl, .curr, .shl, .shr]) (h : .write p l ∈ events i) :
    p ∈ dataPins ∨ p = .e := by
  simp only [List.mem_cons, List.not_mem_nil, or_false] at hi
  obtain rfl | rfl | rfl | rfl | rfl | rfl | rfl := hi
  · exact .inl (mem_dataPins_of_busWrites h)
  · exact pin_of_framingEB h
  · exact pin_of_framingEB h
  · exact pin_of_framingBES h
  · exact pin_of_framingEB h
  · exact pin_of_framingBES h
  · exact pin_of_framingEB h

/-- They write neither RS nor RW, which are neither data pins nor E. -/
theorem rs_rw_not_mem_short_events {i : Instr} {f : Bool} {v : Byte} {p : Pin} {l : Level}
    (hi : i ∈ [Instr.sendb v, .home, .dir f, .curl, .curr, .shl, .shr]) (hp : p = .rs ∨ p = .rw) :
    .write p l ∉ events i := fun h => by
  obtain rfl | rfl := hp <;> exact absurd (pin_of_short_events hi h) (by decide)

/-- Settles O44. `rs_rw_not_mem_short_events` for the seven commands; SENDB writes data pins only. -/
theorem rsAndRwAreInherited : Obligations.RsAndRwAreInherited := by
  unfold Obligations.RsAndRwAreInherited
  refine fun f v l => ⟨fun i hi => ⟨?_, ?_⟩, fun h => ?_⟩
  · exact rs_rw_not_mem_short_events hi (.inl rfl)
  · exact rs_rw_not_mem_short_events hi (.inr rfl)
  · exact absurd (mem_dataPins_of_busWrites h) (by decide)

/-- After its `OFF` framing SET does not write RW, if RW is not among the selected pins. -/
theorem framingSet_eq_off_append {selected : List Pin} (hs : .rw ∉ selected) :
    ∃ tail, framingSet selected = offWrites ++ tail ∧ ∀ l : Level, .write .rw l ∉ tail := by
  refine ⟨eRise :: selected.map (fun p => .write p true) ++ [eFall], by simp [framingSet], fun l => ?_⟩
  simp [eRise, eFall, hs]

/-- After its `OFF` a stream of characters does not write RW. -/
theorem streamEvents_eq_off_append (strings : List CharString) :
    ∃ tail, streamEvents strings = offWrites ++ tail ∧ ∀ l : Level, .write .rw l ∉ tail := by
  refine ⟨.write .rs true :: cells strings ++ [.write .rs false], by simp [streamEvents], fun l => ?_⟩
  simp [cells_no_rw]

/-- A command writes RW not at all, or only in the event list of ALLOFF at the head of its own (10_state.md R12). -/
theorem events_rw_cases (i : Instr) :
    (∀ l : Level, .write .rw l ∉ events i) ∨
    ∃ tail, events i = events .alloff ++ tail ∧ ∀ l : Level, .write .rw l ∉ tail := by
  cases i
  case alloff => exact .inr ⟨[], by simp, by simp⟩
  case init f => exact .inr (framingSet_eq_off_append (by cases f <;> decide))
  case clear => exact .inr (framingSet_eq_off_append (by decide))
  case stream strings => exact .inr (streamEvents_eq_off_append strings)
  case print strings w => exact .inr (streamEvents_eq_off_append (strings.map (pad w)))
  case sendb v => exact .inl fun l => rs_rw_not_mem_short_events (f := false) (v := v) (by simp) (.inr rfl)
  case dir f => exact .inl fun l => rs_rw_not_mem_short_events (f := f) (v := 0#8) (by simp) (.inr rfl)
  all_goals exact .inl fun l => rs_rw_not_mem_short_events (f := false) (v := 0#8) (by simp) (.inr rfl)

/-- Settles O6. The event lists by `events_rw_cases`, the states by the invariant, which every step keeps. -/
theorem rwIsNeverDrivenHigh : Obligations.RwIsNeverDrivenHigh := by
  unfold Obligations.RwIsNeverDrivenHigh
  refine ⟨fun i v hw => ⟨events_rw_low i v hw, ?_⟩, rfl, fun s hinv => latch_low_or_unknown hinv.rw_not_high,
    fun s t hinv hstep => latch_low_or_unknown (stepKeepsInv s t hinv hstep).rw_not_high⟩
  obtain hno | htail := events_rw_cases i
  · exact absurd hw (hno v)
  · exact htail

end Sys2Proof.Proofs
end

section
/-! SUPPORT. What a step does to STATUS, the latches, UPC and the constants, from the cases of the step
(10_state.md sections 4 to 6). -/

namespace Sys2Proof.Proofs

open Sys2Proof.Machine Sys2Proof.Safety Sys2Proof.Laws

/-- A step answers one next state only. -/
theorem step_next_unique {s t u : State} (ht : step s = .next t) (hu : step s = .next u) : t = u := by
  simpa [hu] using ht.symm

/-- Settles O5. Each mode has its step; in RUN, UPC is at most len(EV), so there is an event to issue or the end is
reached. -/
theorem stepAlwaysAnswersNext : Obligations.StepAlwaysAnswersNext := by
  unfold Obligations.StepAlwaysAnswersNext
  intro s hinv
  rcases hrst : rstNow s with _ | _
  case true => exact ⟨_, step_reset hrst⟩
  case false =>
    rcases hs : s.seq with _ | _ | _
    case idle =>
      rcases hc : s.cmdPort with _ | ⟨_ | P, port⟩
      · exact ⟨_, step_idle_nothing hrst hs hc⟩
      · exact ⟨_, step_idle_wait hrst hs hc⟩
      · rcases hd : decode s.params.pktMax P with e | i
        · exact ⟨_, step_idle_illegal hrst hs hc hd⟩
        · exact ⟨_, step_idle_legal hrst hs hc hd⟩
    case run =>
      obtain hlt | hend := hinv.upc_le.lt_or_eq
      · rcases he : s.ev[s.upc] with ⟨p, v⟩ | _
        · exact ⟨_, step_run_write hrst hs (List.getElem?_eq_some_iff.mpr ⟨hlt, he⟩)⟩
        · exact ⟨_, step_run_sleep hrst hs (List.getElem?_eq_some_iff.mpr ⟨hlt, he⟩)⟩
      · exact ⟨_, step_run_end hrst hs hend⟩
    case sleep => exact ⟨_, step_sleep hrst hs⟩

/-- A write keeps STATUS unless it is answered `err`. -/
theorem pinWrite_status_cases (p : Pin) (v : Level) (s : State) :
    (pinWrite p v s).status = s.status ∨ ∃ port, s.pinPort = some .err :: port := by
  obtain ⟨_, hw⟩ | ⟨_, _, hw⟩ | ⟨_, _, hw⟩ | ⟨port, hport, _⟩ := pinWrite_cases p v s
  case inr.inr.inr => exact .inr ⟨port, hport⟩
  all_goals exact .inl (by simp [hw])

/-- A write answered `err` puts the pin into STATUS. -/
theorem pinWrite_status_err {p : Pin} {v : Level} {s : State} {port : List (Option PinAnswer)}
    (h : s.pinPort = some .err :: port) : (pinWrite p v s).status = Status.afterPinError p := by
  simp [pinWrite, h]

/-- With `rst` low a step keeps STATUS except where a packet is taken, a command completes, or a write is answered `err`. -/
theorem step_status_cases {s t : State} (hstep : step s = .next t) (hrst : rstNow s = false) :
    t.status = s.status ∨ (s.seq = .idle ∧ ∃ P port, s.cmdPort = some P :: port) ∨
    (s.seq = .run ∧ s.upc = s.ev.length) ∨
    (s.seq = .run ∧ ∃ p v port, s.ev[s.upc]? = some (.write p v) ∧ s.pinPort = some .err :: port) := by
  obtain ⟨hhigh, _⟩ | ⟨_, hs, hidle⟩ | ⟨_, hs, hrun⟩ | ⟨_, _, rfl⟩ := step_cases hstep
  case inl => simp [hrst] at hhigh
  case inr.inl =>
    obtain ⟨_, rfl⟩ | ⟨_, _, rfl⟩ | ⟨P, port, _, hc, _⟩ | ⟨P, port, _, hc, _⟩ := hidle
    · exact .inl rfl
    · exact .inl rfl
    · exact .inr (.inl ⟨hs, P, port, hc⟩)
    · exact .inr (.inl ⟨hs, P, port, hc⟩)
  case inr.inr.inl =>
    obtain ⟨hend, _⟩ | ⟨p, v, he, rfl⟩ | ⟨_, rfl⟩ := hrun
    · exact .inr (.inr (.inl ⟨hs, hend⟩))
    · obtain hkeep | ⟨port, hport⟩ := pinWrite_status_cases p v (tickRst s)
      · exact .inl hkeep
      · exact .inr (.inr (.inr ⟨hs, p, v, port, he, hport⟩))
    · exact .inl rfl
  case inr.inr.inr => exact .inl (sleepTick_status _)

/-- Settles O17. The first four clauses are the steps of those points; the last is `step_status_cases`. -/
theorem statusChangesExactlyThere : Obligations.StatusChangesExactlyThere := by
  unfold Obligations.StatusChangesExactlyThere
  intro s t hstep
  refine ⟨fun hrst => ?reset, fun hrst hs P port hc => ⟨fun e hd => ?illegal, fun i hd => ?legal⟩,
    fun hrst hs hend => ?complete, fun hrst hs p v port he hport => ?pinError, fun hrst hidle hend herr => ?other⟩
  case reset => rw [step_next_unique hstep (step_reset hrst)]; rfl
  case illegal => rw [step_next_unique hstep (step_idle_illegal hrst hs hc hd)]; exact ⟨rfl, hs, rfl, rfl⟩
  case legal => rw [step_next_unique hstep (step_idle_legal hrst hs hc hd)]; exact ⟨rfl, rfl, rfl, rfl⟩
  case complete => rw [step_next_unique hstep (step_run_end hrst hs hend)]; rfl
  case pinError => rw [step_next_unique hstep (step_run_write hrst hs he)]; exact pinWrite_status_err hport
  case other =>
    obtain hkeep | h | h | h := step_status_cases hstep hrst
    · exact hkeep
    · exact absurd h hidle
    · exact absurd h hend
    · exact absurd h herr

/-- `PinWrite` changes a latch only if it is the latch written, to the level on `ok` and to `U` on `err`. -/
theorem pinWrite_latch_changed {p q : Pin} {v : Level} {s : State} (h : (pinWrite q v s).pins.get p ≠ s.pins.get p) :
    p = q ∧ ∃ a port, s.pinPort = some a :: port ∧
      ((a = .ok ∧ (pinWrite q v s).pins.get p = .level v) ∨ (a = .err ∧ (pinWrite q v s).pins.get p = .unknown)) := by
  obtain ⟨_, hw⟩ | ⟨_, _, hw⟩ | ⟨port, hport, hw⟩ | ⟨port, hport, hw⟩ := pinWrite_cases q v s <;> rw [hw] at h ⊢
  case inl => exact absurd rfl h
  case inr.inl => exact absurd rfl h
  case inr.inr.inl =>
    obtain rfl : p = q := by by_contra hne; simp [hne] at h
    exact ⟨rfl, .ok, port, hport, .inl ⟨rfl, by simp⟩⟩
  case inr.inr.inr =>
    obtain rfl : p = q := by by_contra hne; simp [hne] at h
    exact ⟨rfl, .err, port, hport, .inr ⟨rfl, by simp⟩⟩

/-- Settles O18. With `rst` low only `PinWrite` touches the latches. -/
theorem latchChangesOnlyByItsWrite : Obligations.LatchChangesOnlyByItsWrite := by
  unfold Obligations.LatchChangesOnlyByItsWrite
  intro s t p hstep hrst hne
  obtain ⟨hhigh, _⟩ | ⟨_, _, hidle⟩ | ⟨_, hs, hrun⟩ | ⟨_, _, rfl⟩ := step_cases hstep
  case inl => simp [hrst] at hhigh
  case inr.inl =>
    obtain ⟨_, rfl⟩ | ⟨_, _, rfl⟩ | ⟨_, _, _, _, _, rfl⟩ | ⟨_, _, _, _, _, rfl⟩ := hidle <;> exact absurd rfl hne
  case inr.inr.inl =>
    obtain ⟨_, rfl⟩ | ⟨q, v, he, rfl⟩ | ⟨_, rfl⟩ := hrun
    · exact absurd rfl hne
    · obtain ⟨rfl, a, port, hport, hlatch⟩ := pinWrite_latch_changed hne
      exact ⟨hs, v, a, port, he, hport, hlatch⟩
    · exact absurd rfl hne
  case inr.inr.inr => exact absurd (by rw [sleepTick_pins]; rfl) hne

/-- A write keeps EV, and keeps UPC or advances it by 1, or it ends the command. -/
theorem pinWrite_upc_cases (p : Pin) (v : Level) (s : State) :
    (pinWrite p v s).seq = .idle ∨
    ((pinWrite p v s).ev = s.ev ∧ ((pinWrite p v s).upc = s.upc ∨ (pinWrite p v s).upc = s.upc + 1)) := by
  obtain ⟨_, hw⟩ | ⟨_, _, hw⟩ | ⟨_, _, hw⟩ | ⟨_, _, hw⟩ := pinWrite_cases p v s <;> rw [hw]
  · exact .inr ⟨rfl, .inl rfl⟩
  · exact .inr ⟨rfl, .inl rfl⟩
  · exact .inr ⟨rfl, .inr rfl⟩
  · exact .inl rfl

/-- A tick keeps UPC or advances it by 1. -/
theorem sleepTick_upc_cases (s : State) : (sleepTick s).upc = s.upc ∨ (sleepTick s).upc = s.upc + 1 := by
  obtain ⟨_, h⟩ | ⟨_, h⟩ := sleepTick_cases s <;> rw [h]
  · exact .inr rfl
  · exact .inl rfl

/-- Settles O21. A reset and a completion end in IDLE; a write, a sleep and a tick keep EV and move UPC by at most 1. -/
theorem upcAdvancesByOne : Obligations.UpcAdvancesByOne := by
  unfold Obligations.UpcAdvancesByOne
  intro s t hs ht hstep
  obtain ⟨_, rfl⟩ | ⟨_, hidle, _⟩ | ⟨_, _, hrun⟩ | ⟨_, _, rfl⟩ := step_cases hstep
  case inl => exact absurd rfl ht
  case inr.inl => exact absurd hidle hs
  case inr.inr.inl =>
    obtain ⟨_, rfl⟩ | ⟨p, v, _, rfl⟩ | ⟨_, rfl⟩ := hrun
    · exact absurd rfl ht
    · exact (pinWrite_upc_cases p v (tickRst s)).resolve_left ht
    · exact ⟨rfl, .inl rfl⟩
  case inr.inr.inr => exact ⟨sleepTick_ev _, sleepTick_upc_cases (tickRst s)⟩

/-- Settles O19. No operation of a step writes SETTLE or the parameters. -/
theorem settleIsReadOnly : Obligations.SettleIsReadOnly := by
  unfold Obligations.SettleIsReadOnly
  intro s t hstep
  obtain ⟨_, rfl⟩ | ⟨_, _, hidle⟩ | ⟨_, _, hrun⟩ | ⟨_, _, rfl⟩ := step_cases hstep
  case inl => exact ⟨rfl, rfl⟩
  case inr.inl =>
    obtain ⟨_, rfl⟩ | ⟨_, _, rfl⟩ | ⟨_, _, _, _, _, rfl⟩ | ⟨_, _, _, _, _, rfl⟩ := hidle <;> exact ⟨rfl, rfl⟩
  case inr.inr.inl =>
    obtain ⟨_, rfl⟩ | ⟨p, v, _, rfl⟩ | ⟨_, rfl⟩ := hrun
    · exact ⟨rfl, rfl⟩
    · exact ⟨pinWrite_settle p v _, pinWrite_params p v _⟩
    · exact ⟨rfl, rfl⟩
  case inr.inr.inr => exact ⟨sleepTick_settle _, sleepTick_params _⟩

/-! ### Single steps -/

/-- Settles O7. The step of an idle block with a legal packet, and that `exec` of a command at an idle block accepts it. -/
theorem stepRunsDecodedCommand : Obligations.StepRunsDecodedCommand := by
  unfold Obligations.StepRunsDecodedCommand
  intro s P port i hrst hs hc hd
  rw [step_idle_legal hrst hs hc hd, exec_idle i (by exact hs)]
  rfl

/-- Settles O13. Both cases are steps that `Laws` gives for an idle block offered nothing. -/
theorem idleBlockWaits : Obligations.IdleBlockWaits := by
  unfold Obligations.IdleBlockWaits
  exact fun s hrst hs => ⟨step_idle_nothing hrst hs, fun port => step_idle_wait hrst hs⟩

/-- Settles O16. `complete` clears TMR and keeps ERRPIN; in the invariant both are 0 already. -/
theorem endOfEventListCompletes : Obligations.EndOfEventListCompletes := by
  unfold Obligations.EndOfEventListCompletes
  intro s hinv hrst hs hend
  have htmr : s.tmr = 0 := hinv.tmr_zero (by simp [hs])
  have hstatus : s.status = Status.accepted := status_of_busy hinv (by simp [hs])
  rw [step_run_end hrst hs hend, complete, tickRst_status, hstatus, htmr]
  rfl

/-! ### The reset state and the STATUS register -/

/-- Settles O1. The latches by `get_unknown`, every other field by computation. -/
theorem resetStateIsTheTable : Obligations.ResetStateIsTheTable := by
  unfold Obligations.ResetStateIsTheTable
  exact ⟨get_unknown, rfl, rfl, rfl, rfl, rfl, rfl, rfl⟩

/-- The bits of STATUS, field by field (10_state.md R18). -/
theorem statusWord_bit (st : Status) (k : Nat) :
    st.word.getLsbD k =
      if k < 1 then st.busy else if k < 3 then st.res.code.getLsbD (k - 1) else st.errPin.getLsbD (k - 3) := by
  show (0#1 ++ st.errPin ++ st.res.code ++ BitVec.ofBool st.busy : BitVec (1 + 4 + 2 + 1)).getLsbD k = _
  simp only [BitVec.getLsbD_append]
  by_cases h1 : k < 1
  · obtain rfl : k = 0 := by omega
    simp
  · by_cases h3 : k < 3
    · simp [h1, h3, show k - 1 < 2 by omega]
    · have h2 : ¬ k - 1 < 2 := by omega
      simpa [h1, h2, h3, Nat.sub_sub] using BitVec.lt_of_getLsbD

/-- STATUS[0] is BUSY. -/
@[simp] theorem statusWord_busy (st : Status) : st.word.getLsbD 0 = st.busy := statusWord_bit st 0

/-- Settles O50. The fields by the bits of the word; BUSY and ERRPIN by the invariant. -/
theorem statusRegisterLayout : Obligations.StatusRegisterLayout := by
  unfold Obligations.StatusRegisterLayout
  refine ⟨fun st => ⟨statusWord_busy st, ?res, ?errPin, ?bit7⟩, ⟨rfl, rfl, rfl, rfl⟩,
    fun s hinv => ⟨?busy, hinv.errPin_zero, hinv.errPin_le⟩⟩
  case res =>
    refine BitVec.eq_of_getLsbD_eq fun k hk => ?_
    simp [statusWord_bit, hk, show 1 + k < 3 by omega]
  case errPin =>
    refine BitVec.eq_of_getLsbD_eq fun k hk => ?_
    simp [statusWord_bit, hk, show ¬ 3 + k < 1 by omega]
  case bit7 => exact (statusWord_bit st 7).trans (BitVec.getLsbD_of_ge _ 4 (Nat.le_refl 4))
  case busy => rw [statusWord_busy]; exact hinv.busy_iff

end Sys2Proof.Proofs
end

section
/-! SUPPORT. The busy block and the command port, and the answers of the pin port to a write (20_memory.md R26, R39). -/

namespace Sys2Proof.Proofs

open Sys2Proof.Machine Sys2Proof.Safety Sys2Proof.Laws

/-! ### A busy block and its commands -/

@[simp] theorem sleepTick_cmdPort (s : State) : (sleepTick s).cmdPort = s.cmdPort := by
  obtain ⟨_, h⟩ | ⟨_, h⟩ := sleepTick_cases s <;> simp [h]

@[simp] theorem pinWrite_cmdPort (p : Pin) (v : Level) (s : State) : (pinWrite p v s).cmdPort = s.cmdPort := by
  obtain ⟨_, h⟩ | ⟨_, _, h⟩ | ⟨_, _, h⟩ | ⟨_, _, h⟩ := pinWrite_cases p v s <;> simp [h]

/-- Outside mode IDLE no step takes anything from the command port. -/
theorem step_cmdPort_of_busy {s t : State} (hs : s.seq ≠ .idle) (hstep : step s = .next t) : t.cmdPort = s.cmdPort := by
  obtain ⟨_, rfl⟩ | ⟨_, hidle, _⟩ | ⟨_, _, hrun⟩ | ⟨_, _, rfl⟩ := step_cases hstep
  case inl => simp
  case inr.inl => exact absurd hidle hs
  case inr.inr.inl => obtain ⟨_, rfl⟩ | ⟨_, _, _, rfl⟩ | ⟨_, rfl⟩ := hrun <;> simp
  case inr.inr.inr => simp

/-- BUSY is 1 outside mode IDLE, so the block is not ready (60_exceptions.md R92). -/
theorem cmdReady_of_busy {s : State} (hinv : Inv s) (hs : s.seq ≠ .idle) : cmdReady s = false := by
  rw [cmdReady, status_of_busy hinv hs]
  rfl

/-- Settles O11. Only mode IDLE reads the command port, and BUSY is 1 in the other modes. -/
theorem busyBlockHoldsPacketOff : Obligations.BusyBlockHoldsPacketOff := by
  unfold Obligations.BusyBlockHoldsPacketOff
  exact fun s t hinv hs hstep => ⟨step_cmdPort_of_busy hs hstep, cmdReady_of_busy hinv hs⟩

/-- Settles O12. Every command means `accept` of its events, which does nothing outside mode IDLE. -/
theorem busyBlockAcceptsNoCommand : Obligations.BusyBlockAcceptsNoCommand := by
  unfold Obligations.BusyBlockAcceptsNoCommand
  intro i s hs
  rw [exec_eq, accept_busy hs]

/-! ### The answers to a write -/

/-- Past the end of the pin port's answers a write hangs. -/
theorem pinWrite_nothing {p : Pin} {v : Level} {s : State} (h : s.pinPort = []) : pinWrite p v s = s := by
  simp [pinWrite, h]

/-- A write that is not answered yet uses up that entry and waits. -/
theorem pinWrite_wait {p : Pin} {v : Level} {s : State} {port : List (Option PinAnswer)}
    (h : s.pinPort = none :: port) : pinWrite p v s = { s with pinPort := port } := by
  simp [pinWrite, h]

/-- A write answered `ok` is recorded, sets its latch and goes on to the next event. -/
theorem pinWrite_ok {p : Pin} {v : Level} {s : State} {port : List (Option PinAnswer)}
    (h : s.pinPort = some .ok :: port) :
    pinWrite p v s = advance (setLatch p (.level v) (record (.write p v .ok) { s with pinPort := port })) := by
  simp [pinWrite, h]

/-- Settles O14. The step is the write of EV[UPC], and each clause is one answer of the pin port. -/
theorem pinWriteWaitsOrSetsOneLatch : Obligations.PinWriteWaitsOrSetsOneLatch := by
  unfold Obligations.PinWriteWaitsOrSetsOneLatch
  intro s p v hrst hs he
  rw [step_run_write hrst hs he]
  refine ⟨fun hport => ?nothing, fun port hport => ?wait, fun port hport => ?ok⟩
  case nothing => exact congrArg _ (pinWrite_nothing (s := tickRst s) hport)
  case wait => exact congrArg _ (pinWrite_wait (s := tickRst s) hport)
  case ok => exact congrArg _ (pinWrite_ok (s := tickRst s) hport)

end Sys2Proof.Proofs
end

section
/-! SUPPORT. The packets written out as words, that `encode` gives back every packet `decode` accepts, and the submission of
an encoded command (30_encoding.md R60, 10_state.md R19). -/

namespace Sys2Proof.Proofs

open Sys2Proof.Machine Sys2Proof.Safety Sys2Proof.Laws

/-! ### The words of a packet -/

/-- A CHAR token is its character code, written in 16 bits (30_encoding.md R49). -/
theorem charToken_eq_zeroExtend : charToken = fun c => c.zeroExtend 16 := by
  funext c
  revert c
  decide

/-- The two command words that carry IMM, of SENDB and of PRINT, are their base and the byte (30_encoding.md R47). -/
theorem commandWord_imm (v : Byte) :
    commandWord 0x9#4 false v = 0x9000#16 + v.zeroExtend 16 ∧
      commandWord 0xB#4 false v = 0xB000#16 + v.zeroExtend 16 := by
  revert v
  decide

/-- The payload is each string's characters and EOS, and END after the last. -/
theorem encodePayload_eq_flatMap (strings : List CharString) :
    encodePayload strings = strings.flatMap (fun s => s.map charToken ++ [eosToken]) ++ [endToken] := by
  induction strings with
  | nil => rfl
  | cons s rest ih => simp [encodePayload, ih]

/-! ### What an accepted packet is -/

/-- The payload scan accepts only payloads that the encoder writes: what it has read of the open string and what is left are
the tokens of the strings that it adds. -/
theorem encodePayload_of_decodePayload {cur : CharString} {strs out : List CharString} {ts : List Word}
    (h : decodePayload (!cur.isEmpty) cur strs ts = .ok out) :
    ∃ strings, out = strs ++ strings ∧ cur.map charToken ++ ts = encodePayload strings := by
  induction ts generalizing cur strs with
  | nil => simp [decodePayload] at h
  | cons t rest ih =>
    rw [decodePayload] at h
    split_ifs at h with hchar hcode heos hcode hend hcode hopen hrest
    · -- CHAR: the string goes on
      obtain ⟨strings, hout, htoks⟩ :=
        ih (cur := cur ++ [t.codeField.extractLsb' 0 8]) (strs := strs) (by cases cur <;> exact h)
      exact ⟨strings, hout, by simpa [charToken_of hchar hcode] using htoks⟩
    · -- EOS: the string is closed
      obtain ⟨strings, hout, htoks⟩ := ih (cur := []) h
      have ht : t = eosToken := token_ext heos (not_not.mp hcode)
      exact ⟨cur :: strings, by simpa using hout, by simpa [encodePayload, ht] using htoks⟩
    · -- END: no string is open and nothing follows
      have ht : t = endToken := token_ext hend (not_not.mp hcode)
      have hcur : cur = [] := by simpa using hopen
      exact ⟨[], by simpa using h.symm, by simp [encodePayload, ht, hcur, not_not.mp hrest]⟩

/-- A command without payload that the decoder reads from a command word is the one with that packet. -/
theorem encode_of_decodeShort {op : BitVec 4} {f : Bool} {imm : Byte} {i : Instr} (h : decodeShort op f imm = .ok i)
    (hf : f = true → op = 0x1#4 ∨ op = 0x4#4) (himm : imm ≠ 0#8 → op = 0x9#4 ∨ op = 0xB#4) :
    encode i = [commandWord op f imm] := by
  have hop : op = BitVec.ofNat 4 op.toNat := by simp
  rw [decodeShort] at h
  rw [hop] at hf himm ⊢
  generalize op.toNat = n at h hf himm ⊢
  split at h <;> cases h
  case h_2 | h_5 => -- INIT and DIR carry F
    obtain rfl : imm = 0#8 := by simpa using himm
    rfl
  case h_10 => -- SENDB carries IMM
    obtain rfl : f = false := by simpa using hf
    rfl
  all_goals
    obtain rfl : f = false := by simpa using hf
    obtain rfl : imm = 0#8 := by simpa using himm
    rfl

/-- What `decode` asks of the command word and of what follows it (30_encoding.md R56). -/
theorem decode_cons_eq_ok_iff {pktMax : Option Nat} {cw : Word} {ts : List Word} {i : Instr} :
    decode pktMax (cw :: ts) = .ok i ↔
      withinPktMax pktMax (ts.length + 1) = true ∧ cw.zField = 0#3 ∧ ¬ 0xC#4 ≤ cw.opField ∧
        ¬ FlagNotAllowed cw ∧ ¬ ImmNotAllowed cw ∧ decodeBody cw ts = .ok i := by
  rw [decode, FlagNotAllowed, ImmNotAllowed]
  split_ifs <;> simp_all

/-- STREAM and PRINT are the commands with payload. -/
theorem hasPayload_iff (cw : Word) : hasPayload cw.opField = true ↔ StringOp cw := by
  simp [hasPayload, StringOp]

/-- A command with payload is read from the strings that the payload scan finds. -/
theorem decodeBody_payload_eq_ok_iff {cw : Word} {ts : List Word} {i : Instr} (hop : StringOp cw) :
    decodeBody cw ts = .ok i ↔ ∃ strings, decodePayload false [] [] ts = .ok strings ∧
      i = if cw.opField = 0xA#4 then .stream strings else .print strings cw.immField := by
  rw [decodeBody, if_pos ((hasPayload_iff cw).mpr hop)]
  cases decodePayload false [] [] ts
  case error e => simp
  case ok strings => split_ifs <;> simp [eq_comm]

/-- A command without payload is read from a command word that nothing follows. -/
theorem decodeBody_short_eq_ok_iff {cw : Word} {ts : List Word} {i : Instr} (hop : ¬ StringOp cw) :
    decodeBody cw ts = .ok i ↔ ts = [] ∧ decodeShort cw.opField cw.fField cw.immField = .ok i := by
  rw [decodeBody, if_neg (mt (hasPayload_iff cw).mp hop)]
  split_ifs <;> simp_all

/-- The encoder gives back the packet from which a command was decoded. -/
theorem encode_of_decode {pktMax : Option Nat} {P : Packet} {i : Instr} (h : decode pktMax P = .ok i) : encode i = P := by
  cases P
  case nil => cases h
  case cons cw ts =>
    obtain ⟨_, hz, _, hf, himm, hbody⟩ := decode_cons_eq_ok_iff.mp h
    rw [← commandWord_fields hz]
    by_cases hop : StringOp cw
    · obtain ⟨strings, hscan, rfl⟩ := (decodeBody_payload_eq_ok_iff hop).mp hbody
      obtain ⟨_, rfl, rfl⟩ := encodePayload_of_decodePayload (cur := []) hscan
      obtain hA | hB := hop
      · have hflag : cw.fField = false := by simpa [FlagNotAllowed, hA] using hf
        have himm0 : cw.immField = 0#8 := by simpa [ImmNotAllowed, hA] using himm
        simp [encode, hA, hflag, himm0]
      · have hflag : cw.fField = false := by simpa [FlagNotAllowed, hB] using hf
        simp [encode, hB, hflag]
    · obtain ⟨rfl, hshort⟩ := (decodeBody_short_eq_ok_iff hop).mp hbody
      exact encode_of_decodeShort hshort (fun h => by_contra fun hn => hf ⟨h, hn⟩)
        (fun h => by_contra fun hn => himm ⟨h, hn⟩)

/-- Settles O46. The words by computation and the lemmas above; the two directions are `decode_encode` and
`encode_of_decode`. -/
theorem decodeAndEncodeAgree : Obligations.DecodeAndEncodeAgree := by
  unfold Obligations.DecodeAndEncodeAgree
  refine ⟨fun f v w strings => ⟨rfl, ?init, rfl, rfl, ?dir, rfl, rfl, rfl, rfl, ?sendb, ?stream, ?print⟩,
    fun _ _ => decode_encode, fun _ _ _ => encode_of_decode⟩
  case init => cases f <;> rfl
  case dir => cases f <;> rfl
  case sendb => rw [encode, (commandWord_imm v).1]
  case stream => rw [encode, encodePayload_eq_flatMap, charToken_eq_zeroExtend]; rfl
  case print => rw [encode, (commandWord_imm w).2, encodePayload_eq_flatMap, charToken_eq_zeroExtend]; rfl

/-! ### The submission of an encoded command -/

/-- Settles O8. The packet decodes to its command by `decode_encode`, and an idle block accepts every command. -/
theorem stepRunsEncodedCommand : Obligations.StepRunsEncodedCommand := by
  unfold Obligations.StepRunsEncodedCommand
  intro s port i hrst hs hwf hc
  have hd : decode s.params.pktMax (encode i) = .ok i := decode_encode hwf
  exact ⟨stepRunsDecodedCommand s (encode i) port i hrst hs hc hd, step_idle_legal hrst hs hc hd⟩

end Sys2Proof.Proofs
end

section
/-! SUPPORT. The length of a packet is told from its words (30_encoding.md R55), and the packets that the decoder refuses are
those of the conditions I1 to I13 (R53). -/

namespace Sys2Proof.Proofs

open Sys2Proof.Machine Sys2Proof.Safety Sys2Proof.Laws

/-! ### The tokens of a payload before its END -/

/-- The tokens of a payload before its END: each string's characters and EOS (30_encoding.md R60). -/
def bodyTokens (strings : List CharString) : List Word := strings.flatMap fun s => s.map charToken ++ [eosToken]

/-- A payload is its body and END. -/
theorem encodePayload_eq_body (strings : List CharString) : encodePayload strings = bodyTokens strings ++ [endToken] :=
  encodePayload_eq_flatMap strings

/-- A token of the body is a CHAR token or EOS. -/
theorem mem_bodyTokens {strings : List CharString} {t : Word} (h : t ∈ bodyTokens strings) :
    (∃ c, t = charToken c) ∨ t = eosToken := by
  obtain ⟨s, -, ht⟩ := List.mem_flatMap.mp h
  obtain hchar | heos := List.mem_append.mp ht
  · obtain ⟨c, -, rfl⟩ := List.mem_map.mp hchar
    exact .inl ⟨c, rfl⟩
  · exact .inr (List.mem_singleton.mp heos)

/-- No token of the body has the bits of END. -/
theorem kField_ne_end_of_mem_body {strings : List CharString} {t : Word} (h : t ∈ bodyTokens strings) :
    t.kField ≠ 0b10#2 := by
  obtain ⟨c, rfl⟩ | rfl := mem_bodyTokens h <;> simp

/-- A body ends with EOS: no string is open where END stands. -/
theorem eq_eosToken_of_body_eq {strings : List CharString} {before : List Word} {c : Word}
    (h : bodyTokens strings = before ++ [c]) : c = eosToken := by
  obtain rfl | ⟨init, s, rfl⟩ := List.eq_nil_or_concat strings
  · simp [bodyTokens] at h
  · simpa [bodyTokens] using (congrArg List.getLast? h).symm

/-- The one word of a payload with the bits of END is its last. -/
theorem body_of_end_at {strings : List CharString} {before after : List Word} {t : Word}
    (h : encodePayload strings = before ++ t :: after) (ht : t.kField = 0b10#2) :
    bodyTokens strings = before ∧ after = [] := by
  rw [encodePayload_eq_body, List.append_cons_inj_of_notMem (fun hmem => kField_ne_end_of_mem_body hmem ht) (by simp)] at h
  obtain ⟨hbody, -, hafter⟩ := h
  exact ⟨hbody, hafter.symm⟩

/-! ### The length scan -/

/-- The scan for END passes over words without the bits of END. -/
theorem endScan_append {ts rest : List Word} (h : ∀ t ∈ ts, t.kField ≠ 0b10#2) :
    endScan (ts ++ rest) = (endScan rest).map (· + ts.length) := by
  induction ts with
  | nil => simp
  | cons t ts ih =>
    obtain ⟨ht, hts⟩ := List.forall_mem_cons.mp h
    simp [endScan, ht, ih hts, Function.comp_def, Nat.add_assoc]

/-- Whatever words follow a payload, the scan ends at its END. -/
theorem endScan_encodePayload_append (strings : List CharString) (rest : List Word) :
    endScan (encodePayload strings ++ rest) = some (encodePayload strings).length := by
  rw [encodePayload_eq_body, List.append_assoc, endScan_append fun _ => kField_ne_end_of_mem_body]
  simp [endScan, Nat.add_comm]

/-- A packet is a command word alone, or that of STREAM or PRINT with the payload of some strings. -/
theorem encode_cases (i : Instr) :
    ∃ cw ts, encode i = cw :: ts ∧
      ((¬ StringOp cw ∧ ts = []) ∨ (StringOp cw ∧ ∃ strings, ts = encodePayload strings)) := by
  cases i
  case stream strings => exact ⟨_, _, rfl, .inr ⟨.inl (by simp), strings, rfl⟩⟩
  case print strings w => exact ⟨_, _, rfl, .inr ⟨.inr (by simp), strings, rfl⟩⟩
  all_goals exact ⟨_, _, rfl, .inl ⟨by simp [StringOp], rfl⟩⟩

/-- Settles O48. A legal packet is an encoding, and in a payload only the last word has the bits of END. -/
theorem packetLengthIsDecodable : Obligations.PacketLengthIsDecodable := by
  unfold Obligations.PacketLengthIsDecodable
  intro pktMax P Q i hdecode
  obtain rfl := encode_of_decode hdecode
  obtain ⟨cw, ts, hP, ⟨hshort, rfl⟩ | ⟨hop, strings, rfl⟩⟩ := encode_cases i <;> rw [hP]
  · have hpayload : ¬ hasPayload cw.opField = true := mt (hasPayload_iff cw).mp hshort
    simp [packetExtent, hpayload]
  · refine ⟨?_, ?_, ?_⟩
    · simp [packetExtent, (hasPayload_iff cw).mpr hop, endScan_encodePayload_append]
    · simpa using absurd hop
    · rw [encodePayload_eq_body]
      simpa using fun t => kField_ne_end_of_mem_body

/-! ### The conditions I8 to I13 on a payload -/

/-- No payload of the encoder meets one of I8 to I13. -/
theorem not_illegalPayload_encodePayload (strings : List CharString) : ¬ IllegalPayload (encodePayload strings) := by
  have hmem : ∀ t ∈ encodePayload strings, (∃ c, t = charToken c) ∨ t = eosToken ∨ t = endToken := fun t ht => by
    rw [encodePayload_eq_body, List.mem_append, List.mem_singleton] at ht
    exact or_assoc.mp (ht.imp_left mem_bodyTokens)
  rintro (hnoEnd | ⟨t, ht, hk⟩ | ⟨t, ht, hk, hcode⟩ | ⟨t, ht, hk, hcode⟩ | ⟨before, after, c, t, hts, hc, ht⟩ |
    ⟨before, after, t, hts, ht, hafter⟩)
  · exact hnoEnd endToken (by simp [encodePayload_eq_body]) endToken_kField
  · obtain ⟨c, rfl⟩ | rfl | rfl := hmem t ht <;> simp at hk
  · obtain ⟨c, rfl⟩ | rfl | rfl := hmem t ht <;> simp at hk hcode
  · obtain ⟨c, rfl⟩ | rfl | rfl := hmem t ht <;> simp at hk hcode
  · rw [← List.singleton_append, ← List.append_assoc] at hts
    obtain ⟨hbody, -⟩ := body_of_end_at hts ht
    simp [eq_eosToken_of_body_eq hbody] at hc
  · exact hafter (body_of_end_at hts ht).2

/-- Where the payload scan stops, having read the words `pre`, one of I8 to I13 holds of the whole payload. -/
theorem illegalPayload_of_decodePayload {pre ts : List Word} {opened : Bool} {cur : CharString} {strs : List CharString}
    {e : Illegal} (h : decodePayload opened cur strs ts = .error e) (hpre : ∀ t ∈ pre, t.kField ≠ 0b10#2)
    (hopen : opened = true → ∃ before c, pre = before ++ [c] ∧ c.kField = 0b00#2) : IllegalPayload (pre ++ ts) := by
  induction ts generalizing pre opened cur strs with
  | nil => exact .inl (by simpa using hpre)
  | cons t rest ih =>
    have ht : t ∈ pre ++ t :: rest := by simp
    rw [decodePayload] at h
    split_ifs at h with hchar hcode heos hcode hend hcode hopened hrest
    · -- CHAR with a code above 255
      exact .inr (.inr (.inl ⟨t, ht, hchar, hcode⟩))
    · -- CHAR: the scan goes on with a string open
      simpa using ih (pre := pre ++ [t]) h (by simpa [or_imp, forall_and, hchar] using hpre) fun _ => ⟨pre, t, rfl, hchar⟩
    · -- EOS with a code
      exact .inr (.inr (.inr (.inl ⟨t, ht, .inl heos, hcode⟩)))
    · -- EOS: the scan goes on with no string open
      simpa using ih (pre := pre ++ [t]) h (by simpa [or_imp, forall_and, heos] using hpre) (by simp)
    · -- END with a code
      exact .inr (.inr (.inr (.inl ⟨t, ht, .inr hend, hcode⟩)))
    · -- END while a string is open
      obtain ⟨before, c, rfl, hc⟩ := hopen hopened
      exact .inr (.inr (.inr (.inr (.inl ⟨before, rest, c, t, by simp, hc, hend⟩))))
    · -- words after END
      exact .inr (.inr (.inr (.inr (.inr ⟨pre, rest, t, rfl, hend, hrest⟩))))
    · -- the fourth kind
      have hkinds : ∀ k : BitVec 2, k ≠ 0b00#2 → k ≠ 0b01#2 → k ≠ 0b10#2 → k = 0b11#2 := by decide
      exact .inr (.inl ⟨t, ht, hkinds _ hchar heos hend⟩)

/-- The payload scan finds strings exactly where none of I8 to I13 holds. -/
theorem decodePayload_ok_iff (ts : List Word) :
    (∃ strings, decodePayload false [] [] ts = .ok strings) ↔ ¬ IllegalPayload ts := by
  constructor
  · rintro ⟨out, h⟩
    obtain ⟨strings, -, hts⟩ := encodePayload_of_decodePayload (cur := []) h
    obtain rfl : ts = encodePayload strings := hts
    exact not_illegalPayload_encodePayload strings
  · intro hlegal
    rcases h : decodePayload false [] [] ts with e | strings
    · exact absurd (illegalPayload_of_decodePayload (pre := []) h (by simp) (by simp)) hlegal
    · exact ⟨strings, rfl⟩

/-! ### The conditions on a packet -/

/-- I3 says that `OP` is at least 0xC. -/
theorem reservedOp_iff (cw : Word) : ReservedOp cw ↔ 0xC#4 ≤ cw.opField := by
  rw [ReservedOp]
  generalize cw.opField = op
  revert op
  decide

/-- I2 says that the packet is not within PKT_MAX. -/
theorem withinPktMax_iff (pktMax : Option Nat) (n : Nat) :
    withinPktMax pktMax n = true ↔ ¬ ∃ m, pktMax = some m ∧ m < n := by
  cases pktMax <;> simp [withinPktMax]

/-- Every `OP` below 0xA is that of a command without payload. -/
theorem decodeShort_ok {op : BitVec 4} (hop : op < 0xA#4) (f : Bool) (imm : Byte) : ∃ i, decodeShort op f imm = .ok i := by
  have hlt : op.toNat < 10 := hop
  rw [decodeShort]
  generalize op.toNat = n at hlt ⊢
  interval_cases n <;> exact ⟨_, rfl⟩

/-- An `OP` that is neither reserved nor that of STREAM or PRINT is below 0xA. -/
theorem opField_lt_of_short {cw : Word} (hop : ¬ ReservedOp cw) (hs : ¬ StringOp cw) : cw.opField < 0xA#4 := by
  rw [ReservedOp] at hop
  rw [StringOp] at hs
  generalize cw.opField = op at hop hs ⊢
  revert op
  decide

/-- Command word and words after it make a command exactly where none of I7 to I13 holds. -/
theorem decodeBody_ok_iff {cw : Word} {ts : List Word} (hop : ¬ ReservedOp cw) :
    (∃ i, decodeBody cw ts = .ok i) ↔ ¬ ((¬ StringOp cw ∧ ts ≠ []) ∨ (StringOp cw ∧ IllegalPayload ts)) := by
  by_cases hs : StringOp cw
  · simp only [decodeBody_payload_eq_ok_iff hs, hs, not_true_eq_false, false_and, true_and, false_or, ← decodePayload_ok_iff]
    rw [exists_comm]
    simp
  · simp [decodeBody_short_eq_ok_iff hs, hs, decodeShort_ok (opField_lt_of_short hop hs)]

/-- The conditions on a packet with a command word. -/
theorem illegalPacket_cons (pktMax : Option Nat) (cw : Word) (ts : List Word) :
    IllegalPacket pktMax (cw :: ts) ↔
      ¬ withinPktMax pktMax (ts.length + 1) = true ∨ ReservedOp cw ∨ cw.zField ≠ 0#3 ∨ FlagNotAllowed cw ∨
        ImmNotAllowed cw ∨ (¬ StringOp cw ∧ ts ≠ []) ∨ (StringOp cw ∧ IllegalPayload ts) := by
  simp [IllegalPacket, withinPktMax_iff]

/-- A packet decodes to a command exactly where none of I1 to I13 holds. -/
theorem decode_ok_iff (pktMax : Option Nat) (P : Packet) : (∃ i, decode pktMax P = .ok i) ↔ ¬ IllegalPacket pktMax P := by
  cases P
  case nil => simp [decode, IllegalPacket]
  case cons cw ts =>
    simp only [decode_cons_eq_ok_iff, exists_and_left, illegalPacket_cons, ← reservedOp_iff]
    by_cases hop : ReservedOp cw
    · simp [hop]
    · simp only [hop, decodeBody_ok_iff hop]
      tauto

/-- The decoder refuses exactly the packets for which it gives no command. -/
theorem decode_error_iff (pktMax : Option Nat) (P : Packet) :
    (∃ e, decode pktMax P = .error e) ↔ IllegalPacket pktMax P := by
  rw [← not_iff_not, ← decode_ok_iff]
  cases decode pktMax P <;> simp

/-- Settles O47. The conditions by `decode_error_iff`; the step is that of an idle block with an illegal packet. -/
theorem illegalExactlyByTheConditions : Obligations.IllegalExactlyByTheConditions := by
  unfold Obligations.IllegalExactlyByTheConditions
  refine ⟨decode_error_iff, fun s P port hrst hs hc hillegal => ?_⟩
  obtain ⟨e, hd⟩ := (decode_error_iff _ P).mpr hillegal
  exact ⟨_, step_idle_illegal hrst hs hc hd, rfl, rfl, rfl, hs⟩

end Sys2Proof.Proofs
end

section
/-! SUPPORT. The pulses on E of every command, and where its sleeps stand (30_encoding.md R41 to R43). -/

namespace Sys2Proof.Proofs

open Sys2Proof.Machine Sys2Proof.Safety Sys2Proof.Laws

/-! ### The latches in the framings -/

/-- DB reads back the byte on the data latches (10_state.md R10). -/
@[simp] theorem withDb_db (pins : Pins) (v : Byte) : (pins.withDb v).db? = some v := by
  refine congrArg some (?_ : BitVec.ofBool (bitOf v 7) ++ BitVec.ofBool (bitOf v 6) ++ BitVec.ofBool (bitOf v 5) ++
    BitVec.ofBool (bitOf v 4) ++ BitVec.ofBool (bitOf v 3) ++ BitVec.ofBool (bitOf v 2) ++ BitVec.ofBool (bitOf v 1) ++
    BitVec.ofBool (bitOf v 0) = v)
  revert v
  decide

/-- `B(v)` puts `v` on the data latches and keeps the control lines. -/
@[simp] theorem latchesAfter_busWrites (pins : Pins) (v : Byte) : latchesAfter pins (busWrites v) = pins.withDb v := rfl

/-- `OFF` makes every latch 0 from any start. -/
@[simp] theorem latchesAfter_offWrites (pins : Pins) : latchesAfter pins offWrites = controlLowWith 0#8 := rfl

/-! ### Pulses through the framings. Each computes on its latches; `withDb_db` names the byte that DB then holds. -/

/-- `OFF` makes no pulse when E has not been raised. -/
theorem pulses_offWrites_append (pins : Pins) (es : List Event) :
    pulses pins (offWrites ++ es) = pulses (controlLowWith 0#8) es := rfl

/-- Framing EB: one pulse, with its byte. -/
theorem pulses_framingEB (pins : Pins) (v : Byte) : pulses pins (framingEB v) = [(some v, pins.rs)] := by
  rw [← withDb_db pins v]
  rfl

/-- Framing BES: one pulse, with its byte. -/
theorem pulses_framingBES (pins : Pins) (v : Byte) : pulses pins (framingBES v) = [(some v, pins.rs)] := by
  rw [← withDb_db pins v]
  rfl

/-- Framing SET: the pulse is made from all latches 0. -/
theorem pulses_framingSet (pins : Pins) (selected : List Pin) :
    pulses pins (framingSet selected) =
      pulses (controlLowWith 0#8) (eRise :: selected.map (fun p => .write p true) ++ [eFall]) := by
  rw [framingSet, List.append_assoc, pulses_offWrites_append]

/-- A character cell: one pulse with its character, after which E is low again. -/
theorem pulses_framingEBS_append (pins : Pins) (c : Byte) (es : List Event) :
    pulses pins (framingEBS c ++ es) =
      (some c, pins.rs) :: pulses ((pins.withDb c).set .e (.level false)) es := by
  rw [← withDb_db pins c]
  rfl

/-- The cells of some characters with RS high: one pulse per character, in order. -/
theorem pulses_cells (pins : Pins) (hrs : pins.rs = .level true) (chars : List Byte) :
    pulses pins (chars.flatMap framingEBS ++ [.write .rs false]) = chars.map fun c => (some c, .level true) := by
  induction chars generalizing pins with
  | nil => rfl
  | cons c chars ih =>
    rw [List.flatMap_cons, List.append_assoc, pulses_framingEBS_append, ih _ (by exact hrs), hrs]
    rfl

/-- A stream of strings: one pulse per character of the strings, in order and with RS high. -/
theorem pulses_streamEvents (pins : Pins) (strings : List CharString) :
    pulses pins (streamEvents strings) = strings.flatten.map fun c => (some c, .level true) := by
  rw [streamEvents, List.append_assoc, pulses_offWrites_append]
  exact pulses_cells ((controlLowWith 0#8).set .rs (.level true)) rfl strings.flatten

/-- Settles O42. Each command has one of the framings; INIT and CLEAR select their pins from all latches 0. -/
theorem busByteAtEveryFallOfE : Obligations.BusByteAtEveryFallOfE := by
  unfold Obligations.BusByteAtEveryFallOfE
  intro pins f v w strings
  refine ⟨?init, ?clear, pulses_framingEB pins _, ?dir, pulses_framingBES pins _, pulses_framingEB pins _,
    pulses_framingBES pins _, pulses_framingEB pins _, pulses_streamEvents pins _, pulses_streamEvents pins _,
    ⟨rfl, ?sendb⟩, rfl, ?alloff⟩
  case init =>
    rw [events, eventsInit, pulses_framingSet]
    cases f <;> rfl
  case clear =>
    rw [events, eventsClear, pulses_framingSet]
    rfl
  case dir => cases f <;> exact pulses_framingEB pins _
  case sendb => rw [events, eventsSendb, latchesAfter_busWrites, withDb_db]
  case alloff => rw [events, eventsAlloff, latchesAfter_offWrites, controlLowWith, withDb_db]

/-! ### Where the sleeps stand -/

/-- At every sleep of the list E is 1, and the next event lowers it. -/
def SleepsBeforeFall (es : List Event) : Prop :=
  ∀ (before after : List Event) (pins : Pins), es = before ++ .sleep :: after →
    (latchesAfter pins before).e = .level true ∧ after.head? = some eFall

/-- Events with no sleep among them. -/
theorem sleepsBeforeFall_of_not_mem {es : List Event} (h : .sleep ∉ es) : SleepsBeforeFall es :=
  fun _ _ _ hes => absurd (by simp [hes]) h

/-- One list of events after another: E and the next event at a sleep are as in its own list. -/
theorem SleepsBeforeFall.append {a b : List Event} (ha : SleepsBeforeFall a) (hb : SleepsBeforeFall b) :
    SleepsBeforeFall (a ++ b) := by
  intro before after pins hes
  obtain ⟨mid, rfl, hmid⟩ | ⟨mid, hmid, hafter⟩ := List.append_eq_append_iff.mp hes
  · obtain ⟨he, hfall⟩ := hb mid after (latchesAfter pins a) hmid
    exact ⟨by rw [latchesAfter_append]; exact he, hfall⟩
  · cases mid
    case nil =>
      obtain rfl : a = before := by simpa using hmid
      exact hb [] after (latchesAfter pins a) (by simpa using hafter.symm)
    case cons m mid =>
      obtain ⟨rfl, rfl⟩ : .sleep = m ∧ after = mid ++ b := by simpa using hafter
      obtain ⟨he, hfall⟩ := ha before mid pins hmid
      exact ⟨he, by simp [hfall]⟩

/-- The one sleep of a list that has raised E, before the fall. -/
theorem sleepsBeforeFall_raised {es : List Event} (hno : .sleep ∉ es)
    (he : ∀ pins, (latchesAfter pins es).e = .level true) : SleepsBeforeFall (es ++ [.sleep, eFall]) := by
  intro before after pins hes
  obtain ⟨rfl, -, rfl⟩ := (List.append_cons_inj_of_notMem hno (by decide)).mp hes
  exact ⟨he pins, rfl⟩

/-- `B(v)` has no sleep. -/
theorem sleep_not_mem_busWrites (v : Byte) : .sleep ∉ busWrites v := by simp [busWrites]

/-- `OFF` has no sleep. -/
theorem sleep_not_mem_offWrites : .sleep ∉ offWrites := by decide

/-- Framing SET has no sleep. -/
theorem sleepsBeforeFall_framingSet (selected : List Pin) : SleepsBeforeFall (framingSet selected) :=
  sleepsBeforeFall_of_not_mem (by simp [framingSet, sleep_not_mem_offWrites, eRise, eFall])

/-- Framing EB has no sleep. -/
theorem sleepsBeforeFall_framingEB (v : Byte) : SleepsBeforeFall (framingEB v) :=
  sleepsBeforeFall_of_not_mem (by simp [framingEB, sleep_not_mem_busWrites, eRise, eFall])

/-- Framing BES sleeps after it has raised E. -/
theorem sleepsBeforeFall_framingBES (v : Byte) : SleepsBeforeFall (framingBES v) := by
  have h := sleepsBeforeFall_raised (es := busWrites v ++ [eRise]) (by simp [sleep_not_mem_busWrites, eRise]) fun _ => rfl
  simpa [framingBES] using h

/-- The character cell sleeps with E raised before its byte. -/
theorem sleepsBeforeFall_framingEBS (c : Byte) : SleepsBeforeFall (framingEBS c) :=
  sleepsBeforeFall_raised (es := eRise :: busWrites c) (by simp [sleep_not_mem_busWrites, eRise]) fun _ => rfl

/-- The cells of some characters, each with its own sleep. -/
theorem sleepsBeforeFall_cells (chars : List Byte) : SleepsBeforeFall (chars.flatMap framingEBS) := by
  induction chars with
  | nil => exact sleepsBeforeFall_of_not_mem (by simp)
  | cons c chars ih => exact (sleepsBeforeFall_framingEBS c).append ih

/-- A stream sleeps in its cells only. -/
theorem sleepsBeforeFall_streamEvents (strings : List CharString) : SleepsBeforeFall (streamEvents strings) := by
  have hrise : SleepsBeforeFall (offWrites ++ [.write .rs true]) := sleepsBeforeFall_of_not_mem (by decide)
  have hlower : SleepsBeforeFall [.write .rs false] := sleepsBeforeFall_of_not_mem (by decide)
  simpa [streamEvents, cells] using (hrise.append (sleepsBeforeFall_cells strings.flatten)).append hlower

/-- Settles O43. Each command has one of the framings: SET and EB have no sleep, BES and the character cell one, E raised. -/
theorem sleepStandsBeforeFallOfE : Obligations.SleepStandsBeforeFallOfE := by
  unfold Obligations.SleepStandsBeforeFallOfE
  intro i
  change SleepsBeforeFall (events i)
  cases i
  case alloff => exact sleepsBeforeFall_of_not_mem sleep_not_mem_offWrites
  case init f => exact sleepsBeforeFall_framingSet _
  case clear => exact sleepsBeforeFall_framingSet _
  case curl => exact sleepsBeforeFall_framingBES _
  case shl => exact sleepsBeforeFall_framingBES _
  case sendb v => exact sleepsBeforeFall_of_not_mem (sleep_not_mem_busWrites v)
  case stream strings => exact sleepsBeforeFall_streamEvents strings
  case print strings w => exact sleepsBeforeFall_streamEvents _
  all_goals exact sleepsBeforeFall_framingEB _

end Sys2Proof.Proofs
end

section
/-! SUPPORT. Assembler lines and their packets (30_encoding.md R57, R58). -/

namespace Sys2Proof.Proofs

open Sys2Proof.Machine

/-- The packet of a line is the encoding of its command. -/
theorem assemblePacket_of_line {line : List Char} {i : Instr} (h : assembleLine? line = some (some i)) :
    assemblePacket? line = some (encode i) := by
  rw [assemblePacket?, h]

/-- Settles O52. Each line is read as its command, whose encoding is the packet. -/
theorem assemblerLinesGivePackets : Obligations.AssemblerLinesGivePackets := by
  unfold Obligations.AssemblerLinesGivePackets
  refine ⟨assemblePacket_of_line (i := .init true) ?_, assemblePacket_of_line (i := .dir true) ?_,
    assemblePacket_of_line (i := .sendb 0xA5#8) ?_, assemblePacket_of_line (i := .shr) ?_,
    assemblePacket_of_line (i := .stream [[0x41#8]]) ?_, assemblePacket_of_line (i := .print [[0x48#8, 0x69#8]] 20#8) ?_,
    assemblePacket_of_line (i := .print [[0x48#8, 0x69#8], []] 0#8) ?_, ?_⟩ <;> decide

end Sys2Proof.Proofs
end

section
/-! SUPPORT. The contract of a command with its packet, events and end state written out, and the primitives SENDB and ALLOFF
(40_primitives.md R61, R62). -/

namespace Sys2Proof.Proofs

open Sys2Proof.Machine Sys2Proof.Safety

/-- The contract that every command keeps, with its packet, event list and end state in other words: each is owed an
equation. -/
theorem commandContract_of_eqs {i : Instr} {P : Packet} {es : List Event} {ends : Pins → Pins} (hP : encode i = P)
    (hes : events i = es) (hends : ∀ pins, latchesAfter pins es = ends pins) : CommandContract i P es ends := by
  obtain rfl : (fun pins => latchesAfter pins es) = ends := funext hends
  subst hP hes
  exact everyCommandKeepsItsContract i

/-- Settles O27. The packet is the command word that carries IMM, the events are `B(v)`, and DB then reads back `v`. -/
theorem sendbPutsByteOnBus : Obligations.SendbPutsByteOnBus := by
  unfold Obligations.SendbPutsByteOnBus
  intro v
  have hword : encode (.sendb v) = [0x9000#16 + v.zeroExtend 16] := congrArg (fun w => [w]) (commandWord_imm v).1
  have hevents : events (.sendb v) = busWrites v := rfl
  exact ⟨commandContract_of_eqs hword hevents fun pins => latchesAfter_busWrites pins v, fun pins => withDb_db pins v⟩

/-- Settles O28. The events are `OFF`, which makes the latches of the byte 0 with the control lines low. -/
theorem alloffLowersAllPins : Obligations.AlloffLowersAllPins := by
  unfold Obligations.AlloffLowersAllPins
  have hword : encode .alloff = [0x0000#16] := by decide
  have hevents : events .alloff = offWrites := rfl
  exact commandContract_of_eqs hword hevents latchesAfter_offWrites

end Sys2Proof.Proofs
end

section
/-! SUPPORT. What the framings SET and EB leave on the latches, and the display commands that use them
(30_encoding.md R43, 41_display_commands.md R63 to R66). -/

namespace Sys2Proof.Proofs

open Sys2Proof.Machine Sys2Proof.Safety Sys2Proof.Laws

/-! ### The framings SET and EB -/

/-- The data pins at which `v` has a 1, in index order: those that framing SET selects to present `v`. -/
def onePins (v : Byte) : List Pin := dataPins.filter fun p => bitOf v p.index.toNat

/-- From any start, framing SET over the 1 bits of a byte leaves that byte, with the control lines low: `OFF` has made the
other data latches 0. -/
theorem latchesAfter_framingSet_onePins (pins : Pins) (v : Byte) :
    latchesAfter pins (framingSet (onePins v)) = controlLowWith v := by
  rw [framingSet, List.append_assoc, latchesAfter_append, latchesAfter_offWrites]
  revert v
  decide

/-- Framing EB leaves its byte on the data latches and E low, and keeps RS and RW. -/
theorem latchesAfter_framingEB (pins : Pins) (v : Byte) :
    latchesAfter pins (framingEB v) = { pins.withDb v with e := .level false } := rfl

/-- Writes of one level to selected pins are no sleeps. -/
theorem sleepCount_map_write (selected : List Pin) (l : Level) :
    sleepCount (selected.map fun p => .write p l) = 0 := by
  induction selected with
  | nil => rfl
  | cons p selected ih => exact ih

/-- Framing SET has no sleep. -/
theorem sleepCount_framingSet (selected : List Pin) : sleepCount (framingSet selected) = 0 := by
  have hoff : sleepCount offWrites = 0 := rfl
  simp [framingSet, hoff, eRise, eFall, sleepCount, sleepCount_map_write]

/-- The contract of a command that presents `v` by framing SET. -/
theorem commandContract_framingSet {i : Instr} {P : Packet} {v : Byte} (hP : encode i = P)
    (hes : events i = framingSet (onePins v)) :
    CommandContract i P (framingSet (onePins v)) fun _ => controlLowWith v :=
  commandContract_of_eqs hP hes fun pins => latchesAfter_framingSet_onePins pins v

/-- The contract of a command that presents `v` by framing EB. -/
theorem commandContract_framingEB {i : Instr} {P : Packet} {v : Byte} (hP : encode i = P)
    (hes : events i = framingEB v) :
    CommandContract i P (framingEB v) fun pins => { pins.withDb v with e := .level false } :=
  commandContract_of_eqs hP hes fun pins => latchesAfter_framingEB pins v

/-! ### INIT, CLEAR, HOME, DIR -/

/-- Settles O29. INIT is framing SET over the 1 bits of 0x0C, or of 0x0F when the cursor is shown. -/
theorem initPresentsDisplayOn : Obligations.InitPresentsDisplayOn := by
  unfold Obligations.InitPresentsDisplayOn
  have hoff : events (.init false) = framingSet (onePins 0x0C#8) := by decide
  have hon : events (.init true) = framingSet (onePins 0x0F#8) := by decide
  exact ⟨commandContract_framingSet (by decide) hoff, commandContract_framingSet (by decide) hon⟩

/-- Settles O30. CLEAR is framing SET over the one 1 bit of 0x01, and that framing has no sleep. -/
theorem clearPresentsOneWithoutSleep : Obligations.ClearPresentsOneWithoutSleep := by
  unfold Obligations.ClearPresentsOneWithoutSleep
  have hevents : events .clear = framingSet (onePins 0x01#8) := by decide
  exact ⟨commandContract_framingSet (by decide) hevents, sleepCount_framingSet _⟩

/-- Settles O31. HOME is framing EB with the byte 0x02. -/
theorem homePresentsTwo : Obligations.HomePresentsTwo := by
  unfold Obligations.HomePresentsTwo
  have hevents : events .home = framingEB 0x02#8 := rfl
  exact commandContract_framingEB (by decide) hevents

/-- Settles O32. DIR is framing EB with the entry-mode byte of its flag. -/
theorem dirPresentsEntryMode : Obligations.DirPresentsEntryMode := by
  unfold Obligations.DirPresentsEntryMode
  have hrtl : events (.dir true) = framingEB 0x04#8 := rfl
  have hltr : events (.dir false) = framingEB 0x06#8 := rfl
  exact ⟨commandContract_framingEB (by decide) hrtl, commandContract_framingEB (by decide) hltr⟩

end Sys2Proof.Proofs
end

section
/-! SUPPORT. What the framing BES leaves on the latches, and the shift commands that use the framings BES and EB
(30_encoding.md R43, 42_shift_commands.md R68 to R71). -/

namespace Sys2Proof.Proofs

open Sys2Proof.Machine Sys2Proof.Safety Sys2Proof.Laws

/-! ### The framing BES -/

/-- Framing BES leaves its byte on the data latches and E low, and keeps RS and RW: after `B(v)` it only raises and
lowers E, and the sleep between changes no latch. -/
theorem latchesAfter_framingBES (pins : Pins) (v : Byte) :
    latchesAfter pins (framingBES v) = { pins.withDb v with e := .level false } := by
  rw [framingBES, latchesAfter_append, latchesAfter_busWrites]
  rfl

/-- The contract of a command that presents `v` by framing BES. -/
theorem commandContract_framingBES {i : Instr} {P : Packet} {v : Byte} (hP : encode i = P)
    (hes : events i = framingBES v) :
    CommandContract i P (framingBES v) fun pins => { pins.withDb v with e := .level false } :=
  commandContract_of_eqs hP hes fun pins => latchesAfter_framingBES pins v

/-! ### CURL, CURR, SHL, SHR -/

/-- Settles O33. CURL is framing BES with the byte 0x10. -/
theorem curlSendsByteFirstAndSleeps : Obligations.CurlSendsByteFirstAndSleeps := by
  unfold Obligations.CurlSendsByteFirstAndSleeps
  have hevents : events .curl = framingBES 0x10#8 := rfl
  exact commandContract_framingBES (by decide) hevents

/-- Settles O34. CURR is framing EB with the byte 0x14. -/
theorem currRaisesEFirstWithoutSleep : Obligations.CurrRaisesEFirstWithoutSleep := by
  unfold Obligations.CurrRaisesEFirstWithoutSleep
  have hevents : events .curr = framingEB 0x14#8 := rfl
  exact commandContract_framingEB (by decide) hevents

/-- Settles O35. SHL is framing BES with the byte 0x18. -/
theorem shlSendsByteFirstAndSleeps : Obligations.ShlSendsByteFirstAndSleeps := by
  unfold Obligations.ShlSendsByteFirstAndSleeps
  have hevents : events .shl = framingBES 0x18#8 := rfl
  exact commandContract_framingBES (by decide) hevents

/-- Settles O36. SHR is framing EB with the byte 0x1C. -/
theorem shrRaisesEFirstWithoutSleep : Obligations.ShrRaisesEFirstWithoutSleep := by
  unfold Obligations.ShrRaisesEFirstWithoutSleep
  have hevents : events .shr = framingEB 0x1C#8 := rfl
  exact commandContract_framingEB (by decide) hevents

end Sys2Proof.Proofs
end

section
/-! SUPPORT. Padding, what a stream of character cells leaves on the latches and how many events it has, and the commands
STREAM and PRINT (43_stream_commands.md R72 to R76). -/

namespace Sys2Proof.Proofs

open Sys2Proof.Machine Sys2Proof.Safety Sys2Proof.Laws

/-! ### Padding -/

@[simp] theorem pad_length (w : Byte) (s : CharString) : (pad w s).length = max s.length w.toNat := by
  simp only [pad, padCount, List.length_append, List.length_replicate]
  omega

theorem pad_eq_self {w : Byte} {s : CharString} (h : w.toNat ≤ s.length) : pad w s = s := by
  have hcount : padCount w s = 0 := Nat.sub_eq_zero_of_le h
  simp [pad, hcount]

/-- Padded strings have as many characters as their lengths, each raised to the width, add up to. -/
theorem length_flatten_map_pad (strings : List CharString) (w : Byte) :
    (strings.map (pad w)).flatten.length = (strings.map fun s => max s.length w.toNat).sum := by
  simp [List.length_flatten, Function.comp_def]

/-- Settles O40. The padded string is the string and its spaces by definition; `padCount` is a difference cut off at 0, so the
spaces fill up to the width and never beyond it. -/
theorem padNeverCuts : Obligations.PadNeverCuts := by
  unfold Obligations.PadNeverCuts
  exact fun w s => ⟨rfl, pad_length w s, pad_eq_self⟩

/-! ### Character cells -/

/-- A character cell leaves its character on the data latches and E low, and keeps RS and RW. -/
theorem latchesAfter_framingEBS (pins : Pins) (c : Byte) :
    latchesAfter pins (framingEBS c) = { pins.withDb c with e := .level false } := rfl

/-- The cells of some characters, from RS high and the other control lines low: the last character is left on the data
latches, and the control lines are as before. -/
theorem latchesAfter_cells (b : Byte) (chars : List Byte) :
    latchesAfter ((controlLowWith b).set .rs (.level true)) (chars.flatMap framingEBS) =
      (controlLowWith (chars.getLast?.getD b)).set .rs (.level true) := by
  induction chars generalizing b with
  | nil => rfl
  | cons c chars ih =>
    have hcell : latchesAfter ((controlLowWith b).set .rs (.level true)) (framingEBS c) =
        (controlLowWith c).set .rs (.level true) := latchesAfter_framingEBS _ c
    rw [List.flatMap_cons, latchesAfter_append, hcell, ih, List.getLast?_cons, Option.getD_some]

theorem writeCount_cells (chars : List Byte) : writeCount (chars.flatMap framingEBS) = 10 * chars.length := by
  induction chars with
  | nil => rfl
  | cons c chars ih =>
    have hcell : writeCount (framingEBS c) = 10 := rfl
    rw [List.flatMap_cons, writeCount_append, hcell, ih, List.length_cons]
    omega

theorem sleepCount_cells (chars : List Byte) : sleepCount (chars.flatMap framingEBS) = chars.length := by
  induction chars with
  | nil => rfl
  | cons c chars ih =>
    have hcell : sleepCount (framingEBS c) = 1 := rfl
    rw [List.flatMap_cons, sleepCount_append, hcell, ih, List.length_cons, Nat.add_comm]

/-! ### A stream of strings -/

/-- A stream in its parts: `OFF` and RS+, the cells, RS-. -/
theorem streamEvents_eq (strings : List CharString) :
    streamEvents strings =
      (offWrites ++ [.write .rs true]) ++ strings.flatten.flatMap framingEBS ++ [.write .rs false] := rfl

/-- Only the characters of a stream matter, not where one string ends and the next begins. -/
theorem streamEvents_congr {a b : List CharString} (h : a.flatten = b.flatten) : streamEvents a = streamEvents b := by
  rw [streamEvents_eq, streamEvents_eq, h]

/-- From any start, a stream leaves its last character on the data latches, or 0 if it has none, and the control lines low. -/
theorem latchesAfter_streamEvents (pins : Pins) (strings : List CharString) :
    latchesAfter pins (streamEvents strings) = controlLowWith (strings.flatten.getLast?.getD 0#8) := by
  have hstart : latchesAfter pins (offWrites ++ [.write .rs true]) = (controlLowWith 0#8).set .rs (.level true) := rfl
  rw [streamEvents_eq, latchesAfter_append, latchesAfter_append, hstart, latchesAfter_cells]
  rfl

/-- A stream has the twelve writes before its cells, ten in each cell, and the one after them. -/
theorem writeCount_streamEvents (strings : List CharString) :
    writeCount (streamEvents strings) = 13 + 10 * strings.flatten.length := by
  have hstart : writeCount (offWrites ++ [.write .rs true]) = 12 := rfl
  have hend : writeCount [.write .rs false] = 1 := rfl
  rw [streamEvents_eq, writeCount_append, writeCount_append, hstart, writeCount_cells, hend]
  omega

/-- A stream sleeps once in each cell and nowhere else. -/
theorem sleepCount_streamEvents (strings : List CharString) :
    sleepCount (streamEvents strings) = strings.flatten.length := by
  have hstart : sleepCount (offWrites ++ [.write .rs true]) = 0 := rfl
  have hend : sleepCount [.write .rs false] = 0 := rfl
  rw [streamEvents_eq, sleepCount_append, sleepCount_append, hstart, sleepCount_cells, hend, Nat.zero_add, Nat.add_zero]

/-! ### STREAM and PRINT -/

/-- Settles O37. The events of STREAM are a stream of its strings, with the primitives ALLOFF and SENDB written for `OFF` and
the byte of a cell. -/
theorem streamSendsEveryCharacter : Obligations.StreamSendsEveryCharacter := by
  unfold Obligations.StreamSendsEveryCharacter
  intro strings
  have hword : commandWord 0xA#4 false 0#8 = 0xA000#16 := by decide
  have hpacket : encode (.stream strings) = 0xA000#16 :: encodePayload strings :=
    congrArg (· :: encodePayload strings) hword
  exact ⟨commandContract_of_eqs hpacket rfl fun pins => latchesAfter_streamEvents pins strings,
    writeCount_streamEvents strings, sleepCount_streamEvents strings⟩

/-- Settles O38. The events of PRINT are a stream of its padded strings, whose characters `length_flatten_map_pad` counts. -/
theorem printStreamsPaddedStrings : Obligations.PrintStreamsPaddedStrings := by
  unfold Obligations.PrintStreamsPaddedStrings
  intro strings w
  have hpacket : encode (.print strings w) = (0xB000#16 + w.zeroExtend 16) :: encodePayload strings :=
    congrArg (· :: encodePayload strings) (commandWord_imm w).2
  have hevents : events (.print strings w) = streamEvents (strings.map (pad w)) := rfl
  refine ⟨commandContract_of_eqs hpacket rfl fun pins => latchesAfter_streamEvents pins (strings.map (pad w)), ?_, ?_⟩
  · rw [hevents, sleepCount_streamEvents, length_flatten_map_pad]
  · rw [hevents, writeCount_streamEvents, length_flatten_map_pad]

/-- Settles O39. A stream is fixed by its characters (`streamEvents_congr`), and padding adds none to a string that is as long
as the width. -/
theorem streamAndPrintCornerCases : Obligations.StreamAndPrintCornerCases := by
  unfold Obligations.StreamAndPrintCornerCases
  refine ⟨fun _ => ⟨rfl, rfl⟩, fun _ => ⟨streamEvents_congr rfl, rfl⟩, ?width_zero, ?full_width, ?boundaries⟩
  case width_zero =>
    intro strings
    have hpad (s : CharString) : pad 0#8 s = s := pad_eq_self (Nat.zero_le s.length)
    exact congrArg streamEvents (List.map_id'' hpad strings)
  case full_width =>
    intro s w h
    exact congrArg (fun t => streamEvents [t]) (pad_eq_self h)
  case boundaries =>
    intro strings
    exact streamEvents_congr (by simp)

end Sys2Proof.Proofs
end

section
/-! SUPPORT. The two errors and the ways a command ends (60_exceptions.md R79, R80, R86). -/

namespace Sys2Proof.Proofs

open Sys2Proof.Machine Sys2Proof.Safety Sys2Proof.Laws

/-! ### The two errors -/

/-- Settles O10. The step refuses the packet, and `raiseIllegal` writes STATUS and the results only. -/
theorem illegalPacketChangesOnlyStatus : Obligations.IllegalPacketChangesOnlyStatus := by
  unfold Obligations.IllegalPacketChangesOnlyStatus
  intro s P port e hrst hs hc hd
  rw [step_idle_illegal hrst hs hc hd]
  rfl

/-- A write answered `err` is recorded, makes its latch `U` and ends the command. -/
theorem pinWrite_err {p : Pin} {v : Level} {s : State} {port : List (Option PinAnswer)}
    (h : s.pinPort = some .err :: port) :
    pinWrite p v s = raisePinError p (setLatch p .unknown (record (.write p v .err) { s with pinPort := port })) := by
  simp [pinWrite, h]

/-- Settles O15. The step is the write of EV[UPC] with the answer `err`; setting latch `p` leaves every other latch. -/
theorem pinErrorEndsTheCommand : Obligations.PinErrorEndsTheCommand := by
  unfold Obligations.PinErrorEndsTheCommand
  refine fun s p v port hrst hs he hport => ⟨⟨_, ?step, rfl⟩, fun q hq => ?otherLatch⟩
  case step =>
    rw [step_run_write hrst hs he]
    exact congrArg _ (pinWrite_err (s := tickRst s) hport)
  case otherLatch => rw [get_set, if_neg hq]

/-! ### The end of a command -/

/-- A write keeps the mode unless it is answered `err`. -/
theorem pinWrite_seq_cases (p : Pin) (v : Level) (s : State) :
    (pinWrite p v s).seq = s.seq ∨ ∃ port, s.pinPort = some .err :: port := by
  obtain ⟨_, hw⟩ | ⟨_, _, hw⟩ | ⟨_, _, hw⟩ | ⟨port, hport, _⟩ := pinWrite_cases p v s
  case inr.inr.inr => exact .inr ⟨port, hport⟩
  all_goals exact .inl (by simp [hw])

/-- A tick of a sleeping block does not end the command. -/
theorem sleepTick_seq_ne_idle {s : State} (hs : s.seq = .sleep) : (sleepTick s).seq ≠ .idle := by
  obtain ⟨_, h⟩ | ⟨_, h⟩ := sleepTick_cases s <;> simp [h, hs]

/-- Settles O22. The reset, the completion and the write answered `err` are the three ways; a write answered otherwise,
a sleep that begins and a tick leave the block outside IDLE. -/
theorem commandEndsOnlyInThreeWays : Obligations.CommandEndsOnlyInThreeWays := by
  unfold Obligations.CommandEndsOnlyInThreeWays
  intro s t hs ht hstep
  obtain ⟨hrst, _⟩ | ⟨_, hidle, _⟩ | ⟨_, hrun, hrunning⟩ | ⟨_, hsleep, rfl⟩ := step_cases hstep
  case inl => exact .inl hrst
  case inr.inl => exact absurd hidle hs
  case inr.inr.inl =>
    obtain ⟨hend, _⟩ | ⟨p, v, he, rfl⟩ | ⟨_, rfl⟩ := hrunning
    · exact .inr (.inl ⟨hrun, hend⟩)
    · obtain hkeep | ⟨port, hport⟩ := pinWrite_seq_cases p v (tickRst s)
      · exact absurd (hkeep.symm.trans ht) hs
      · exact .inr (.inr ⟨hrun, p, v, port, he, hport⟩)
    · exact absurd ht nofun
  case inr.inr.inr => exact absurd ht (sleepTick_seq_ne_idle hsleep)

end Sys2Proof.Proofs
end

section
/-! SUPPORT. The settle timer: how long a sleep lasts, and that SETTLE_TICKS rounds up (60_exceptions.md R88, R89). -/

namespace Sys2Proof.Proofs

open Sys2Proof.Machine Sys2Proof.Safety Sys2Proof.Laws

/-! ### The countdown -/

/-- During a sleep TMR counts down by one a tick and nothing else changes. -/
theorem runSteps_countdown {s : State} {k : Nat} (hlow : RstLow s) (hs : s.seq = .sleep) (hk : k ≤ s.tmr) :
    runSteps k s = .next { s with rst := s.rst.drop k, tmr := s.tmr - k } := by
  induction k generalizing s with
  | zero => rfl
  | succ k ih =>
    have ht : sleepTick (tickRst s) = { tickRst s with tmr := s.tmr - 1 } := by
      simp [sleepTick, show s.tmr ≠ 0 by omega]
    rw [runSteps_succ (step_sleep (rstLow_now hlow) hs), ht]
    refine (ih (s := { tickRst s with tmr := s.tmr - 1 }) (rstLow_tail hlow rfl) hs (Nat.le_sub_one_of_lt hk)).trans ?_
    simp [Nat.sub_sub, Nat.add_comm]

/-- Settles O23. One step begins the sleep, `runSteps_countdown` gives the states during it and `runSteps_sleep` the one
after it. -/
theorem sleepLastsSettleTicks : Obligations.SleepLastsSettleTicks := by
  unfold Obligations.SleepLastsSettleTicks
  refine fun s hlow hs he => ⟨fun k hk => ?during, ?after⟩
  case during =>
    rw [runSteps_succ (step_run_sleep (rstLow_now hlow) hs he)]
    refine (runSteps_countdown (s := startSleep (tickRst s)) (rstLow_tail hlow rfl) rfl hk).trans ?_
    have hticks : settleTicks (tickRst s) = settleTicks s := rfl
    simp [hticks]
  case after => exact runSteps_sleep hlow hs he

/-! ### The rounding -/

/-- The ticks times the period reach the settle duration. -/
theorem settle_le_ceilTicks_mul (settleUs : Nat) {p : Period} (hp : 0 < p.num) :
    settleUs * 1000 * p.den ≤ ceilTicks settleUs p * p.num := by
  have h : settleUs * 1000 * p.den + p.num - 1 < ceilTicks settleUs p * p.num + p.num := Nat.lt_div_mul_add hp
  omega

/-- They pass it by less than one period. -/
theorem ceilTicks_mul_lt (settleUs : Nat) {p : Period} (hp : 0 < p.num) :
    ceilTicks settleUs p * p.num < settleUs * 1000 * p.den + p.num := by
  have h : ceilTicks settleUs p * p.num ≤ settleUs * 1000 * p.den + p.num - 1 := Nat.div_mul_le_self _ _
  omega

/-- Settles O24. With T_TICK given SETTLE_TICKS is `ceilTicks`; the two bounds are those of its rounding. -/
theorem settleTicksCoverSettle : Obligations.SettleTicksCoverSettle := by
  unfold Obligations.SettleTicksCoverSettle
  intro s p htick hp
  have hticks : settleTicks s = ceilTicks s.settle p := by simp [settleTicks, htick]
  rw [hticks]
  exact ⟨settle_le_ceilTicks_mul s.settle hp, ceilTicks_mul_lt s.settle hp⟩

end Sys2Proof.Proofs
end

section
/-! SUPPORT. The output ports as functions of the state (60_exceptions.md R91, R92). -/

namespace Sys2Proof.Proofs

open Sys2Proof.Machine Sys2Proof.Safety

/-- BUSY is 0 exactly in mode IDLE, so the block is ready exactly there. -/
theorem cmdReady_iff {s : State} (hinv : Inv s) : cmdReady s = true ↔ s.seq = .idle := by
  rw [cmdReady, Bool.not_eq_true', ← Bool.not_eq_true, hinv.busy_iff, not_not]

/-- `done` is `cmd_ready` with an outcome in RES. -/
theorem done_iff (s : State) : done s = true ↔ cmdReady s = true ∧ s.status.res ≠ .none := by
  rw [done, Bool.and_eq_true, bne_iff_ne, cmdReady]

/-- The outstanding write is the one at EV[UPC] of a running block. -/
theorem outstanding_eq_some_iff {s : State} {p : Pin} {v : Level} :
    outstanding s = some (p, v) ↔ s.seq = .run ∧ s.ev[s.upc]? = some (.write p v) := by
  rcases hs : s.seq with _ | _ | _
  case run => rcases he : s.ev[s.upc]? with _ | (⟨q, l⟩ | _) <;> simp [outstanding, hs, he]
  all_goals simp [outstanding, hs]

/-- `pin_req` is high exactly while some write is outstanding. -/
theorem pinReq_iff (s : State) : pinReq s = true ↔ ∃ p v, outstanding s = some (p, v) := by
  rw [pinReq, Option.isSome_iff_exists, Prod.exists]

/-- Settles O51. The first two ports read BUSY, which the invariant ties to SEQ; the other three read the outstanding
write. -/
theorem portsFollowTheState : Obligations.PortsFollowTheState := by
  unfold Obligations.PortsFollowTheState
  refine fun s hinv => ⟨cmdReady_iff hinv, ?done, ?pinReq, fun p v hs he => ?pinSelLvl⟩
  case done => rw [done_iff, cmdReady_iff hinv]
  case pinReq => simp only [pinReq_iff, outstanding_eq_some_iff, exists_and_left]
  case pinSelLvl =>
    have hout : outstanding s = some (p, v) := outstanding_eq_some_iff.mpr ⟨hs, he⟩
    rw [pinSel?, pinLvl?, hout]
    exact ⟨rfl, rfl⟩

end Sys2Proof.Proofs
end

section
/-! SUPPORT. Reset, the ALLOFF commands and the event counts (70_reset_and_hazards.md R95 to R99, R111). -/

namespace Sys2Proof.Proofs

open Sys2Proof.Machine Sys2Proof.Safety Sys2Proof.Laws

/-! ### Reset -/

/-- Settles O2. With `rst` high the step is `resetBlock` (`step_reset`), whatever the mode; the latches are `U` by `get_unknown`
and the other fields by computation. -/
theorem resetInputWinsAtAnyTime : Obligations.ResetInputWinsAtAnyTime := by
  unfold Obligations.ResetInputWinsAtAnyTime
  exact fun s hrst => ⟨_, step_reset hrst, get_unknown, rfl, rfl, rfl, rfl, rfl, rfl, rfl, rfl, rfl⟩

/-! ### The commands that contain ALLOFF -/

/-- INIT is framing SET over the 1 bits of its byte. -/
theorem events_init (f : Bool) : events (.init f) = framingSet (onePins (if f then 0x0F#8 else 0x0C#8)) := by
  cases f <;> decide

/-- CLEAR is framing SET over the 1 bit of its byte. -/
theorem events_clear : events .clear = framingSet (onePins 0x01#8) := by decide

/-- Settles O45. The byte is that of the command's framing, or the last character of its stream: `OFF` makes the latches known
and what follows it leaves the control lines low. -/
theorem alloffCommandsMakePinsKnown : Obligations.AlloffCommandsMakePinsKnown := by
  unfold Obligations.AlloffCommandsMakePinsKnown
  intro f strings w i hi
  simp only [List.mem_cons, List.not_mem_nil, or_false] at hi
  obtain rfl | rfl | rfl | rfl | rfl := hi
  · exact ⟨_, latchesAfter_offWrites⟩
  · exact ⟨_, fun pins => by rw [events_init, latchesAfter_framingSet_onePins]⟩
  · exact ⟨_, fun pins => by rw [events_clear, latchesAfter_framingSet_onePins]⟩
  · exact ⟨_, fun pins => latchesAfter_streamEvents pins strings⟩
  · exact ⟨_, fun pins => latchesAfter_streamEvents pins (strings.map (pad w))⟩

/-! ### Event counts -/

/-- An event list with `n` sleeps takes at least `n` settle durations. -/
theorem leastDuration_of_sleepCount {es : List Event} {n : Nat} (h : sleepCount es = n) (settleUs : Nat) :
    leastDuration settleUs es = n * settleUs := by
  rw [leastDuration, h]

/-- An event list without a sleep has no least duration. -/
theorem leastDuration_of_no_sleep {es : List Event} (h : sleepCount es = 0) (settleUs : Nat) :
    leastDuration settleUs es = 0 := by
  rw [leastDuration_of_sleepCount h, Nat.zero_mul]

/-- Writes of one level to selected pins are as many as the pins. -/
theorem writeCount_map_write (selected : List Pin) (l : Level) :
    writeCount (selected.map fun p => .write p l) = selected.length := by
  induction selected with
  | nil => rfl
  | cons p selected ih => exact congrArg (· + 1) ih

/-- Framing SET: the eleven writes of `OFF`, one for each selected pin, and the two of E. -/
theorem counts_framingSet (selected : List Pin) (settleUs : Nat) :
    writeCount (framingSet selected) = 13 + selected.length ∧ leastDuration settleUs (framingSet selected) = 0 := by
  refine ⟨?_, leastDuration_of_no_sleep (sleepCount_framingSet selected) settleUs⟩
  have hoff : writeCount offWrites = 11 := rfl
  have hrise (es : List Event) : writeCount (eRise :: es) = writeCount es + 1 := rfl
  have hfall : writeCount [eFall] = 1 := rfl
  rw [framingSet, writeCount_append, writeCount_append, hoff, hrise, writeCount_map_write, hfall]
  omega

/-- Framing EB: the eight writes of its byte and the two of E. -/
theorem counts_framingEB (v : Byte) (settleUs : Nat) :
    writeCount (framingEB v) = 10 ∧ leastDuration settleUs (framingEB v) = 0 :=
  ⟨rfl, leastDuration_of_no_sleep rfl settleUs⟩

/-- Framing BES: the same writes and one sleep. -/
theorem counts_framingBES (v : Byte) (settleUs : Nat) :
    writeCount (framingBES v) = 10 ∧ leastDuration settleUs (framingBES v) = settleUs :=
  ⟨rfl, (leastDuration_of_sleepCount rfl settleUs).trans (Nat.one_mul settleUs)⟩

/-- A stream of `n` characters: ten writes and a sleep for each, and the thirteen writes around them. -/
theorem counts_streamEvents {strings : List CharString} {n : Nat} (hn : n = strings.flatten.length) (settleUs : Nat) :
    writeCount (streamEvents strings) = 13 + 10 * n ∧ sleepCount (streamEvents strings) = n ∧
      leastDuration settleUs (streamEvents strings) = n * settleUs := by
  subst hn
  exact ⟨writeCount_streamEvents strings, sleepCount_streamEvents strings,
    leastDuration_of_sleepCount (sleepCount_streamEvents strings) settleUs⟩

/-- Settles O41. Each command has the counts of its framing, STREAM and PRINT those of a stream of their characters. -/
theorem eventCountsOfEveryCommand : Obligations.EventCountsOfEveryCommand := by
  unfold Obligations.EventCountsOfEveryCommand
  intro settleUs f v w strings
  refine ⟨?sendb, ?alloff, ?init0, ?init1, ?clear, ?home, ?dir, ?curl, ?curr, ?shl, ?shr, ?stream, ?print⟩
  case sendb => exact ⟨rfl, leastDuration_of_no_sleep rfl settleUs⟩
  case alloff => exact ⟨rfl, leastDuration_of_no_sleep rfl settleUs⟩
  case init0 => exact counts_framingSet (initPins false) settleUs
  case init1 => exact counts_framingSet (initPins true) settleUs
  case clear => exact counts_framingSet [.d0] settleUs
  case home => exact counts_framingEB _ settleUs
  case dir => exact counts_framingEB _ settleUs
  case curl => exact counts_framingBES _ settleUs
  case curr => exact counts_framingEB _ settleUs
  case shl => exact counts_framingBES _ settleUs
  case shr => exact counts_framingEB _ settleUs
  case stream => exact fun n hn => counts_streamEvents (hn.trans List.length_flatten.symm) settleUs
  case print => exact fun n hn => counts_streamEvents (hn.trans (length_flatten_map_pad strings w).symm) settleUs

end Sys2Proof.Proofs
end

section
/-! SUPPORT. Runs of a command whose writes are answered `ok` after any delays (60_exceptions.md R84,
70_reset_and_hazards.md R110, R112). -/

namespace Sys2Proof.Proofs

open Sys2Proof.Machine Sys2Proof.Safety Sys2Proof.Laws

/-! ### Delayed answers -/

/-- The pin port's entries hold `n` answers, all `ok`, with waits before each of them and none after the last. -/
def DelayedOk (n : Nat) (delayed : List (Option PinAnswer)) : Prop :=
  delayed.filterMap id = List.replicate n .ok ∧ delayed.getLast? ≠ some none

/-- No answers are no entries at all: a wait would be the last one. -/
theorem eq_nil_of_delayedOk_zero {delayed : List (Option PinAnswer)} (h : DelayedOk 0 delayed) : delayed = [] := by
  obtain ⟨hans, hlast⟩ := h
  have hwaits : ∀ a ∈ delayed, a = none := List.filterMap_eq_nil_iff.mp hans
  rcases hd : delayed.getLast? with _ | a
  · exact List.getLast?_eq_none_iff.mp hd
  · exact absurd (hd.trans (congrArg some (hwaits a (List.mem_of_getLast? hd)))) hlast

/-- The first answer stands after waits only, and the entries after it hold the other answers. -/
theorem exists_waits_of_delayedOk_succ {n : Nat} {delayed : List (Option PinAnswer)} (h : DelayedOk (n + 1) delayed) :
    ∃ waits rest, delayed = waits ++ some .ok :: rest ∧ (∀ a ∈ waits, a = none) ∧ DelayedOk n rest := by
  obtain ⟨hans, hlast⟩ := h
  obtain ⟨waits, _, rest, rfl, hwaits, rfl, hrest⟩ := List.filterMap_eq_cons_iff.mp hans
  refine ⟨waits, rest, rfl, hwaits, hrest, fun hnone => hlast ?_⟩
  simp [List.getLast?_append, List.getLast?_cons, hnone]

/-! ### Runs with delays -/

/-- Running on through no event uses up input only. -/
theorem afterEvents_nil (s : State) (n : Nat) (port : List (Option PinAnswer)) :
    afterEvents s n [] port = { s with rst := s.rst.drop n, pinPort := port } := by
  simp [afterEvents, latchesAfter, okTrace]

/-- A running block at a write stays there while the pin port does not answer. -/
theorem runSteps_waits {s : State} {p : Pin} {v : Level} {waits port : List (Option PinAnswer)} (hlow : RstLow s)
    (hs : s.seq = .run) (he : s.ev[s.upc]? = some (.write p v)) (hwaits : ∀ a ∈ waits, a = none)
    (hport : s.pinPort = waits ++ port) :
    runSteps waits.length s = .next (afterEvents s waits.length [] port) := by
  induction waits generalizing s with
  | nil =>
    obtain rfl : s.pinPort = port := hport
    rw [afterEvents_nil]
    rfl
  | cons a waits ih =>
    obtain ⟨rfl, hwaits'⟩ := List.forall_mem_cons.mp hwaits
    have hstep : step s = .next (afterEvents s 1 [] (waits ++ port)) := by
      rw [step_run_write (rstLow_now hlow) hs he, pinWrite_wait (s := tickRst s) hport, afterEvents_nil, List.drop_one]
      rfl
    have hrest := ih (s := afterEvents s 1 [] (waits ++ port)) (rstLow_drop 1 hlow rfl) hs he hwaits' rfl
    rw [List.length_cons, runSteps_succ hstep, hrest, afterEvents_afterEvents, Nat.add_comm, List.nil_append]

/-- One event runs to its end, a write when its answer comes. -/
theorem runSteps_event_delayed {s : State} {e : Event} {es : List Event} {delayed port : List (Option PinAnswer)}
    (hlow : RstLow s) (hs : s.seq = .run) (htmr : s.tmr = 0) (he : s.ev[s.upc]? = some e)
    (hport : s.pinPort = delayed ++ port) (hok : DelayedOk (writeCount (e :: es)) delayed) :
    ∃ n rest, runSteps n s = .next (afterEvents s n [e] (rest ++ port)) ∧ DelayedOk (writeCount es) rest := by
  cases e
  case write p v =>
    obtain ⟨waits, rest, rfl, hwaits, hrest⟩ := exists_waits_of_delayedOk_succ hok
    rw [List.append_assoc] at hport
    have hanswer := step_write_ok (s := afterEvents s waits.length [] (some .ok :: rest ++ port))
      (rstLow_now (rstLow_drop waits.length hlow rfl)) hs he rfl
    rw [afterEvents_afterEvents, List.nil_append] at hanswer
    refine ⟨waits.length + 1, rest, ?_, hrest⟩
    rw [runSteps_add (runSteps_waits hlow hs he hwaits hport)]
    exact runSteps_succ hanswer 0
  case sleep => exact ⟨_, delayed, runSteps_event hlow hs htmr he hport, hok⟩

/-- The events at the head of what is left of EV run to their end, whatever the delays. -/
theorem runSteps_events_delayed {s : State} {es : List Event} {delayed port : List (Option PinAnswer)} (hlow : RstLow s)
    (hs : s.seq = .run) (htmr : s.tmr = 0) (hev : es <+: s.ev.drop s.upc) (hport : s.pinPort = delayed ++ port)
    (hok : DelayedOk (writeCount es) delayed) : ∃ n, runSteps n s = .next (afterEvents s n es port) := by
  induction es generalizing s delayed with
  | nil =>
    obtain rfl := eq_nil_of_delayedOk_zero hok
    obtain rfl : s.pinPort = port := hport
    exact ⟨0, by rw [afterEvents_nil]; rfl⟩
  | cons e es ih =>
    obtain ⟨he, hevs⟩ := event_of_prefix hev
    obtain ⟨m, rest, hrun, hrest⟩ := runSteps_event_delayed hlow hs htmr he hport hok
    obtain ⟨n, hruns⟩ := ih (s := afterEvents s m [e] (rest ++ port)) (rstLow_drop m hlow rfl) hs htmr hevs rfl hrest
    exact ⟨m + n, by rw [runSteps_add hrun, hruns, afterEvents_afterEvents, List.singleton_append]⟩

/-- Settles O26. `runSteps_events_delayed` over all events of the command, then the one step that completes. -/
theorem answerDelaysDoNotChangeOutcome : Obligations.AnswerDelaysDoNotChangeOutcome := by
  unfold Obligations.AnswerDelaysDoNotChangeOutcome
  intro i s delayed port hinv hs hlow hport hok hlast
  have htmr : s.tmr = 0 := hinv.tmr_zero (by simp [hs])
  obtain ⟨n, hrun⟩ := runSteps_events_delayed (s := accepted s (events i)) hlow rfl htmr (List.prefix_refl _) hport
    ⟨hok, hlast⟩
  refine ⟨n + 1, _, exec_idle i hs, ?_⟩
  rw [runSteps_add hrun]
  exact runSteps_succ (step_completes hinv hs hlow) 0

end Sys2Proof.Proofs
end

section
/-! SUPPORT. The packet that the host places for the next step, the reset state as a state of the invariant, and the words that
the spec writes out (10_state.md R23, 95_test_vectors.md 2.1 and 2.2). -/

namespace Sys2Proof.Proofs

open Sys2Proof.Machine Sys2Proof.Safety Sys2Proof.Laws

/-! ### A placed packet -/

/-- The instruction of a table word is what `decode` reads from its packet. -/
theorem decodeTableWord_eq_some_iff {nbits w : Nat} {i : Instr} :
    decodeTableWord nbits w = some i ↔ decode none (tablePacket nbits w) = .ok i := by
  rw [decodeTableWord]
  cases decode none (tablePacket nbits w) <;> simp

/-- `rst` is low at the step that takes a presented packet. -/
theorem rstNow_presentPacket (P : Packet) (s : State) : rstNow (presentPacket P s) = false := by
  rw [rstNow, presentPacket]
  split_ifs with hrst
  · rfl
  · exact Bool.eq_false_of_not_eq_true hrst

/-- The step after a legal packet is presented runs its command, in the idle state with that packet taken. -/
theorem step_presentPacket {s : State} {P : Packet} {i : Instr} (hd : decode s.params.pktMax P = .ok i) :
    step (presentPacket P s) =
      exec i { presentPacket P s with rst := (presentPacket P s).rst.tail, cmdPort := s.cmdPort } :=
  stepRunsDecodedCommand (presentPacket P s) P s.cmdPort i (rstNow_presentPacket P s) rfl rfl hd

/-- Settles O9. `withFetchWord` presents the packet of the table word; the step takes it (`step_presentPacket`). -/
theorem stepRunsPlacedInstruction : Obligations.StepRunsPlacedInstruction := by
  unfold Obligations.StepRunsPlacedInstruction
  intro s nbits w i hmax hi
  have hd : decode s.params.pktMax (tablePacket nbits w) = .ok i := by
    rw [hmax]
    exact decodeTableWord_eq_some_iff.mp hi
  exact ⟨_, step_presentPacket hd, rfl, rfl, rfl, rfl, rfl, rfl, rfl⟩

/-! ### The invariant at reset -/

/-- A reset leaves the reset state as it is. -/
theorem resetBlock_reset : resetBlock State.reset = State.reset := rfl

/-- Settles O3. Every state after a reset has the invariant, and the reset state is one. -/
theorem resetStateMeetsInv : Obligations.ResetStateMeetsInv := by
  unfold Obligations.ResetStateMeetsInv
  rw [← resetBlock_reset]
  exact inv_resetBlock State.reset

/-! ### The words of the spec -/

/-- With PKT_MAX not given, a packet that the encoder writes decodes to its command. -/
theorem decode_of_encode_eq {i : Instr} {P : Packet} (h : encode i = P) : decode none P = .ok i := by
  subst h
  exact decode_encode rfl

/-- Settles O49. Each legal packet is the encoding of its command; the last packet is refused by the payload scan. -/
theorem wordsOfTheSpecDecode : Obligations.WordsOfTheSpecDecode := by
  unfold Obligations.WordsOfTheSpecDecode
  refine ⟨decode_of_encode_eq ?init, decode_of_encode_eq ?dir, decode_of_encode_eq ?shl, decode_of_encode_eq ?sendb,
    decode_of_encode_eq ?print, ?endInsideString⟩ <;> decide

end Sys2Proof.Proofs
end
